-- ==== Sys2Proof/Word.lean ====
section
/-! DEFINITION. The word types of ASC-CORE: port words, opcode bytes, line levels. -/

namespace Sys2Proof

/-- A port word, and a 32-bit register (20_memory R44, 10_state R25). -/
abbrev Word := BitVec 32

/-- An opcode byte, and an 8-bit coefficient (30_encoding R67, 10_state R25). -/
abbrev Byte := BitVec 8

/-- A level on one of the two lines: 0 is low, 1 is high (20_memory R49, R50). -/
inductive Level where
  | low
  | high
  deriving DecidableEq, Repr, Inhabited

end Sys2Proof
end

