-- ==== Sys2Proof/Syntax.lean ====
section
/-! DEFINITION. The commands of ASC-CORE, one constructor per row of the opcode map (30_encoding R76). -/

namespace Sys2Proof

/-- A decoded command with its operands as the packet's fields hold them (30_encoding R74, R76). -/
inductive Instr where
  | init (sel : BitVec 2)
  | powerDown
  | powerUp
  | isReady
  | readRaw
  | readRawAvg (n : BitVec 16)
  | setInputSelect (sel : BitVec 2)
  | filterUpdate (raw : Word)
  | readFiltered
  | setFilterParams (dlow dhigh : Word) (amin amax : Byte) (db : Word)
  | tare
  | setScale (value : Word)
  | setOffset (value : Word)
  | toUnits (count : Word)
  | readRawUnits
  | readFilteredUnits
  deriving DecidableEq, Repr

/-- The name of a command without its operands: the rows of 30_encoding R76. -/
inductive Op where
  | init | powerDown | powerUp
  | isReady | readRaw | readRawAvg | setInputSelect
  | filterUpdate | readFiltered | setFilterParams
  | tare | setScale | setOffset | toUnits | readRawUnits | readFilteredUnits
  deriving DecidableEq, Repr

/-- The row of the opcode map a command belongs to. -/
def Instr.op : Instr → Op
  | .init _ => .init
  | .powerDown => .powerDown
  | .powerUp => .powerUp
  | .isReady => .isReady
  | .readRaw => .readRaw
  | .readRawAvg _ => .readRawAvg
  | .setInputSelect _ => .setInputSelect
  | .filterUpdate _ => .filterUpdate
  | .readFiltered => .readFiltered
  | .setFilterParams _ _ _ _ _ => .setFilterParams
  | .tare => .tare
  | .setScale _ => .setScale
  | .setOffset _ => .setOffset
  | .toUnits _ => .toUnits
  | .readRawUnits => .readRawUnits
  | .readFilteredUnits => .readFilteredUnits

end Sys2Proof
end

