-- ==== Sys2Proof/WellFormed.lean ====
section
/-! DEFINITION. Which commands a packet can stand for. -/

namespace Sys2Proof

/-- A command some legal packet encodes: the mode of INIT and SET_INPUT_SELECT is 0, 1 or 2 (30_encoding R75); every
other operand may hold every value of its field, and every 32-bit value is a legal argument word (R74, R79). -/
def Instr.wf : Instr → Bool
  | .init sel => decide (sel ≠ 3)
  | .powerDown => true
  | .powerUp => true
  | .isReady => true
  | .readRaw => true
  | .readRawAvg _ => true
  | .setInputSelect sel => decide (sel ≠ 3)
  | .filterUpdate _ => true
  | .readFiltered => true
  | .setFilterParams _ _ _ _ _ => true
  | .tare => true
  | .setScale _ => true
  | .setOffset _ => true
  | .toUnits _ => true
  | .readRawUnits => true
  | .readFilteredUnits => true

end Sys2Proof
end

