-- ==== Sys2Proof/Decode.lean ====
section
/-! DEFINITION. Packets to commands and back (30_encoding), total, rejecting by name; the encoder after the decoder. -/

namespace Sys2Proof

/-- The packet formats of 30_encoding R69 to R73. -/
inductive Format where
  | N | S | C | W | F
  deriving DecidableEq, Repr

/-- The number of words of a packet (30_encoding R68). -/
def Format.words : Format → Nat
  | .N => 1
  | .S => 1
  | .C => 1
  | .W => 2
  | .F => 4

/-- The opcode byte of each row of the opcode map (30_encoding R76). -/
def Op.opcode : Op → Byte
  | .init => 0x01
  | .powerDown => 0x02
  | .powerUp => 0x03
  | .isReady => 0x10
  | .readRaw => 0x11
  | .readRawAvg => 0x12
  | .setInputSelect => 0x13
  | .filterUpdate => 0x20
  | .readFiltered => 0x21
  | .setFilterParams => 0x22
  | .tare => 0x30
  | .setScale => 0x31
  | .setOffset => 0x32
  | .toUnits => 0x33
  | .readRawUnits => 0x34
  | .readFilteredUnits => 0x35

/-- The format of each row of the opcode map (30_encoding R76). -/
def Op.format : Op → Format
  | .init => .S
  | .powerDown => .N
  | .powerUp => .N
  | .isReady => .N
  | .readRaw => .N
  | .readRawAvg => .C
  | .setInputSelect => .S
  | .filterUpdate => .W
  | .readFiltered => .N
  | .setFilterParams => .F
  | .tare => .N
  | .setScale => .W
  | .setOffset => .W
  | .toUnits => .W
  | .readRawUnits => .N
  | .readFilteredUnits => .N

/-- The rows of the opcode map in the table's order (30_encoding R76). -/
def opcodeMap : List Op :=
  [.init, .powerDown, .powerUp, .isReady, .readRaw, .readRawAvg, .setInputSelect, .filterUpdate, .readFiltered,
   .setFilterParams, .tare, .setScale, .setOffset, .toUnits, .readRawUnits, .readFilteredUnits]

/-- The row with a given opcode, if the map has one. -/
def opOf (opc : Byte) : Option Op := opcodeMap.find? (fun op => op.opcode == opc)

/-- `OPC = H[7:0]` (30_encoding R67). -/
def hdrOpc (h : Word) : Byte := h.extractLsb' 0 8

/-- `SEL2 = H[9:8]` (30_encoding R70). -/
def hdrSel (h : Word) : BitVec 2 := h.extractLsb' 8 2

/-- `N16 = H[23:8]` (30_encoding R71). -/
def hdrN (h : Word) : BitVec 16 := h.extractLsb' 8 16

/-- `AMIN8 = H[15:8]` (30_encoding R73). -/
def hdrAmin (h : Word) : Byte := h.extractLsb' 8 8

/-- `AMAX8 = H[23:16]` (30_encoding R73). -/
def hdrAmax (h : Word) : Byte := h.extractLsb' 16 8

/-- Why a list of words is no packet. The first four are the illegal headers of 30_encoding R78 and an absent header;
the last is a packet whose argument words have not all arrived (20_memory R47). -/
inductive DecodeError where
  | noHeader
  | unknownOpcode
  | reservedBits
  | illegalSelect
  | missingArguments
  deriving DecidableEq, Repr

/-- Whether the bits that the format requires to be 0 are 0 (30_encoding R69 to R73). -/
def Format.reservedClear (f : Format) (h : Word) : Bool :=
  match f with
  | .N => h.extractLsb' 8 24 == 0
  | .S => h.extractLsb' 10 22 == 0
  | .C => h.extractLsb' 24 8 == 0
  | .W => h.extractLsb' 8 24 == 0
  | .F => h.extractLsb' 24 8 == 0

/-- The header decoder, total on every 32-bit word (30_encoding R79). -/
def decodeHeader (h : Word) : Except DecodeError Op :=
  match opOf (hdrOpc h) with
  | none => .error .unknownOpcode
  | some op =>
    if op.format.reservedClear h = false then .error .reservedBits
    else if op.format = .S ∧ hdrSel h = 3 then .error .illegalSelect
    else .ok op

/-- The command a legal header and the words after it stand for, with the words left over (30_encoding R74). -/
def assemble (op : Op) (h : Word) (ws : List Word) : Except DecodeError (Instr × List Word) :=
  match op, ws with
  | .init, r => .ok (.init (hdrSel h), r)
  | .powerDown, r => .ok (.powerDown, r)
  | .powerUp, r => .ok (.powerUp, r)
  | .isReady, r => .ok (.isReady, r)
  | .readRaw, r => .ok (.readRaw, r)
  | .readRawAvg, r => .ok (.readRawAvg (hdrN h), r)
  | .setInputSelect, r => .ok (.setInputSelect (hdrSel h), r)
  | .filterUpdate, a0 :: r => .ok (.filterUpdate a0, r)
  | .filterUpdate, [] => .error .missingArguments
  | .readFiltered, r => .ok (.readFiltered, r)
  | .setFilterParams, a0 :: a1 :: a2 :: r => .ok (.setFilterParams a0 a1 (hdrAmin h) (hdrAmax h) a2, r)
  | .setFilterParams, _ => .error .missingArguments
  | .tare, r => .ok (.tare, r)
  | .setScale, a0 :: r => .ok (.setScale a0, r)
  | .setScale, [] => .error .missingArguments
  | .setOffset, a0 :: r => .ok (.setOffset a0, r)
  | .setOffset, [] => .error .missingArguments
  | .toUnits, a0 :: r => .ok (.toUnits a0, r)
  | .toUnits, [] => .error .missingArguments
  | .readRawUnits, r => .ok (.readRawUnits, r)
  | .readFilteredUnits, r => .ok (.readFilteredUnits, r)

/-- One packet off the front of a list of port words. The header is judged before any argument word is looked at
(30_encoding R78). -/
def decode (ws : List Word) : Except DecodeError (Instr × List Word) :=
  match ws with
  | [] => .error .noHeader
  | h :: r =>
    match decodeHeader h with
    | .error e => .error e
    | .ok op => assemble op h r

/-- A header of formats N and W (30_encoding R69, R72). -/
def plainHeader (op : Op) : Word := (0#24 ++ op.opcode : BitVec (24 + 8))

/-- A header of format S (30_encoding R70). -/
def selectHeader (op : Op) (sel : BitVec 2) : Word := (0#22 ++ sel ++ op.opcode : BitVec (22 + 2 + 8))

/-- A header of format C (30_encoding R71). -/
def countHeader (op : Op) (n : BitVec 16) : Word := (0#8 ++ n ++ op.opcode : BitVec (8 + 16 + 8))

/-- A header of format F (30_encoding R73). -/
def filterHeader (op : Op) (amin amax : Byte) : Word := (0#8 ++ amax ++ amin ++ op.opcode : BitVec (8 + 8 + 8 + 8))

/-- The packet of a command (30_encoding R69 to R73). -/
def encode : Instr → List Word
  | .init sel => [selectHeader .init sel]
  | .powerDown => [plainHeader .powerDown]
  | .powerUp => [plainHeader .powerUp]
  | .isReady => [plainHeader .isReady]
  | .readRaw => [plainHeader .readRaw]
  | .readRawAvg n => [countHeader .readRawAvg n]
  | .setInputSelect sel => [selectHeader .setInputSelect sel]
  | .filterUpdate raw => [plainHeader .filterUpdate, raw]
  | .readFiltered => [plainHeader .readFiltered]
  | .setFilterParams dlow dhigh amin amax db => [filterHeader .setFilterParams amin amax, dlow, dhigh, db]
  | .tare => [plainHeader .tare]
  | .setScale value => [plainHeader .setScale, value]
  | .setOffset value => [plainHeader .setOffset, value]
  | .toUnits count => [plainHeader .toUnits, count]
  | .readRawUnits => [plainHeader .readRawUnits]
  | .readFilteredUnits => [plainHeader .readFilteredUnits]

/-- How many words the packet of a header has: its format's length, or one where the opcode is not in the map (30_encoding R68). -/
def packetLength (h : Word) : Nat :=
  match opOf (hdrOpc h) with
  | some op => op.format.words
  | none => 1

/-- Whether a list of words is one whole packet: a header and the argument words its opcode needs (30_encoding R68, 20_memory
R47). -/
def wholePacket (ws : List Word) : Bool :=
  match ws with
  | [] => false
  | h :: args => args.length + 1 == packetLength h

/-- The four words of the number `w` of `nbits` bits, bit 0 the least significant of the first word. -/
def tableWords (nbits w : Nat) : List Word :=
  [BitVec.ofNat 32 (w % 2 ^ nbits), BitVec.ofNat 32 (w % 2 ^ nbits / 2 ^ 32), BitVec.ofNat 32 (w % 2 ^ nbits / 2 ^ 64),
   BitVec.ofNat 32 (w % 2 ^ nbits / 2 ^ 96)]

/-- The packet those words begin with: its own length, no word more. -/
def tablePacket (nbits w : Nat) : List Word :=
  (tableWords nbits w).take (packetLength (BitVec.ofNat 32 (w % 2 ^ nbits)))

/-- The command the decoder reads from a row's bits as spec/opcode_table.json numbers them. -/
def decodeTableWord (nbits w : Nat) : Option Instr :=
  match decode (tablePacket nbits w) with
  | .ok (i, _) => some i
  | .error _ => none

/-- One word from four bytes of a byte-wide bus. `lane k` is the place on the bus of the word's byte k (bits 8k+7..8k):
`P_PORT_BYTE_ORDER`, OPEN, an argument (20_memory R46; log 17). -/
def wordOfBytes (lane : Fin 4 → Fin 4) (b : Fin 4 → Byte) : Word :=
  (b (lane 3) ++ b (lane 2) ++ b (lane 1) ++ b (lane 0) : BitVec (8 + 8 + 8 + 8))

/-- The words of a list of bus bytes, four at a time; bytes short of a word are dropped, since the port moves whole
words (20_memory R46, R47). -/
def wordsOfBytes (lane : Fin 4 → Fin 4) : List Byte → List Word
  | b0 :: b1 :: b2 :: b3 :: r =>
    wordOfBytes lane (fun k => [b0, b1, b2, b3].getD k.val 0) :: wordsOfBytes lane r
  | _ => []

/-- The decoder on the bytes of a byte-wide bus. -/
def decodeBytes (lane : Fin 4 → Fin 4) (bs : List Byte) : Except DecodeError (Instr × List Word) :=
  decode (wordsOfBytes lane bs)

end Sys2Proof
end

