-- ==== Sys2Proof/Config.lean ====
section
/-! DEFINITION. What stands outside the state: the construction parameters and the free values (00_scope R12). -/

namespace Sys2Proof

/-- `P_LINES`: which of the platform's GPIO lines `clockOut` and `dataLine` are (00_scope R12, 20_memory R57). A line of the
platform has a number (DESIGN CHOICE, log 18). -/
structure Lines where
  clockOut : Nat
  dataLine : Nat
  deriving DecidableEq, Repr, Inhabited

/-- The construction parameters `P_LINES` and `CFG_*` (00_scope R12, 70_reset R134; 92_eei_decisions, OPEN parameters). -/
structure Params where
  lines    : Lines
  offset   : Word
  scale    : Word
  dlow     : Word
  dhigh    : Word
  amin     : Byte
  amax     : Byte
  deadband : Word
  deriving DecidableEq, Repr, Inhabited

/-- The construction invariants of 00_scope R14, and the two lines distinct (92_eei_decisions, OPEN parameters; log 18). The
8-bit width keeps the coefficients below 256. -/
def Params.valid (P : Params) : Bool :=
  decide (P.lines.clockOut ≠ P.lines.dataLine) && decide (P.dlow.toNat < P.dhigh.toNat) && decide (P.amin.toNat ≤ P.amax.toNat)

/-- FREE VALUE: the parameters the platform gives at construction are OPEN (00_scope R12, 92 D15; log 3). -/
opaque Config.cfg : Params

/-- The parameters `State.reset` is built from: whatever valid parameters the platform gives. A model refuses invalid
ones (00_scope R14), so where the free value is invalid a fixed valid one stands in (DESIGN CHOICE, log 3). -/
def Config.construction : Params :=
  if Config.cfg.valid then Config.cfg else ⟨⟨0, 1⟩, 0, 0, 0, 1, 0, 0, 0⟩

/-- FREE VALUE: the level of the n-th sample past the levels that `State.draws` lists: a draw under no law
(20_memory R50, 92 D22; log 2). -/
opaque Config.freeLevel : Nat → Level

/-- FREE VALUE: by how many nanoseconds `T_SETTLE` exceeds its bound of 1 us (00_scope R12, 70_reset R140; log 14). -/
opaque Config.settleSlack : Nat

/-- `T_SETTLE` in nanoseconds, OPEN and at least 1 us (00_scope R12). -/
def Config.tSettle : Nat := 1000 + Config.settleSlack

/-- `T_PD` in nanoseconds: 60 us (00_scope R12, 44_control R118). -/
def Config.tPd : Nat := 60000

end Sys2Proof
end

