-- ==== Sys2Proof/Machine/State.lean ====
section
/-! DEFINITION. The state of the one `SensorChannel` (10_state), its stops, and the state after reset. -/

namespace Sys2Proof.Machine

/-- The input-select modes, 0, 1 and 2 in this order; 3 is never held (10_state R26). -/
inductive InputSelect where
  | gainA128
  | gainB32
  | gainA64
  deriving DecidableEq, Repr

/-- `powerMode`: 0 Normal, 1 PowerDown (10_state R27). -/
inductive PowerMode where
  | normal
  | powerDown
  deriving DecidableEq, Repr

/-- The direction of the data line: 0 input with pull-up, 1 output (10_state R30). -/
inductive Direction where
  | input
  | output
  deriving DecidableEq, Repr

/-- The half of a pulse the block is about to make (10_state R38). -/
inductive Half where
  | hi
  | lo
  deriving DecidableEq, Repr

/-- A position in a command's pseudocode: the place from which the next line event is made (10_state R38). `wait`,
`data`, `trail` and `fix` are the spec's; `sample` is the second event of its DATA(i, HI); `lines` and `hold` stand between the
line events of INIT and of POWER_DOWN (DEDUCED, log 1). -/
inductive Pos where
  | lines
  | hold
  | wait
  | data (i : Fin 24) (h : Half)
  | sample (i : Fin 24)
  | trail (j : Nat) (h : Half)
  | fix
  deriving DecidableEq, Repr

/-- The sequencer, the block's program counter (10_state R38). The operands inside `c` are the scratch register `ARG`
(10_state R39). -/
inductive Phase where
  | idle
  | run (c : Instr) (p : Pos)
  | halted
  deriving DecidableEq, Repr

/-- One entry of the line trace (20_memory R53). `clk` includes the settle after it (R49, R52). -/
inductive LineEvent where
  | clk (l : Level)
  | sample (d : Level)
  | dirIn
  | holdPd
  deriving DecidableEq, Repr

/-- Where the machine stops. -/
inductive Fault where
  /-- The host read `RES` before any command had a result: raised by `hostRead`, never by a step. The spec asks a model
  to fault that read (10_state R34, 70_reset R139, 92 D15, 93 I11). Safe: nothing is claimed of the value. -/
  | resNoValue
  /-- The sequencer stands at `lines`, `hold` or FIX and the running command's pseudocode does not have that position: raised by
  `advance`. The spec gives such a state no meaning and no run reaches it (log 16). Safe: the model stops. -/
  | noSuchPosition
  deriving DecidableEq, Repr

/-- What the model refuses. -/
inductive Refusal where
  /-- An instruction of the opcode table that has no meaning in this model yet. Safe. -/
  | notModelled (mnemonic : String)
  /-- Construction with parameters that break 00_scope R14, or with one line for both (log 18): raised by `platformReset`.
  Safe: the spec asks for it (93 I5). -/
  | badConstruction
  /-- The host writing while `STATUS = BUSY`, a move it does not have (70_reset R139): raised by `hostWrite`. Safe: the spec
  asks for it (93 I26). -/
  | portBusy
  /-- The host writing words that are not one whole packet while `STATUS = IDLE`, a move it does not have (70_reset R139,
  20_memory R47): raised by `hostWrite`. Safe: the spec gives the host no such move. -/
  | partialPacket
  deriving DecidableEq, Repr

/-- Everything the spec gives the machine. -/
@[ext]
structure State where
  /-- `SEL` (10_state R26). -/
  sel         : InputSelect
  /-- `PWR` (10_state R27). -/
  pwr         : PowerMode
  /-- `LINK` (10_state R28). -/
  link        : Bool
  /-- `CLK`: the level driven on the clock line; `none` while the block does not drive it (10_state R29, 70_reset R135; log 5). -/
  clk         : Option Level
  /-- `DDIR` (10_state R30). -/
  ddir        : Direction
  /-- `OFFSET`, signed (10_state R31). -/
  offset      : Word
  /-- `SCALE`, signed (10_state R31). -/
  scale       : Word
  /-- `EMA`, signed (10_state R32). -/
  ema         : Word
  /-- `STABLE`, signed (10_state R32). -/
  stable      : Word
  /-- `INIT_F` (10_state R32). -/
  initF       : Bool
  /-- `DLOW`, unsigned (10_state R33). -/
  dlow        : Word
  /-- `DHIGH`, unsigned (10_state R33). -/
  dhigh       : Word
  /-- `AMIN`, unsigned (10_state R33). -/
  amin        : Byte
  /-- `AMAX`, unsigned (10_state R33). -/
  amax        : Byte
  /-- `DEADBAND`, unsigned (10_state R33). -/
  deadband    : Word
  /-- `RES`; `none` until the first `respond` (10_state R34; log 5). -/
  res         : Option Word
  /-- `FAULT` (10_state R35). -/
  fault       : BitVec 16
  /-- The sequencer; `STATUS` follows it (10_state R36, R38). -/
  phase       : Phase
  /-- `SHREG`, scratch (10_state R39). -/
  shreg       : BitVec 24
  /-- The local `b` of Shift24 (40_link R87), scratch. -/
  sbit        : Level
  /-- `ACC`, scratch, exact (10_state R39; log 19). -/
  acc         : Nat
  /-- `CNT`, scratch (10_state R39). -/
  cnt         : BitVec 16
  /-- The words the host has written to the port and the block has not taken, first first (20_memory R44; log 8). -/
  port        : List Word
  /-- The levels of the next samples that the environment has settled, first first (20_memory R50; log 2). -/
  draws       : List Level
  /-- How many levels have been drawn past the list `draws` (log 2). -/
  drawn       : Nat
  /-- The line trace, first event first (20_memory R53). -/
  trace       : List LineEvent
  /-- Ghost: the trailing pulses of the last completed transaction; `none` is unknown (10_state R41). -/
  armed       : Option Nat
  /-- Ghost: the sensor's power state; `none` is unknown (10_state R41). -/
  sensorPower : Option PowerMode
  deriving DecidableEq, Repr

/-- The state after construction with the parameters `P` (70_reset R134, R135). `EMA`, `STABLE` and the scratch registers,
for which the spec gives no value, hold 0 (DESIGN CHOICE, logs 4 and 6). -/
def State.construct (P : Params) : State where
  sel := .gainA128
  pwr := .normal
  link := false
  clk := none
  ddir := .input
  offset := P.offset
  scale := P.scale
  ema := 0
  stable := 0
  initF := false
  dlow := P.dlow
  dhigh := P.dhigh
  amin := P.amin
  amax := P.amax
  deadband := P.deadband
  res := none
  fault := 0
  phase := .idle
  shreg := 0
  sbit := .low
  acc := 0
  cnt := 0
  port := []
  draws := []
  drawn := 0
  trace := []
  armed := none
  sensorPower := none

/-- The machine right after reset, with the platform's parameters (70_reset R135; log 3). -/
def State.reset : State := State.construct Config.construction

end Sys2Proof.Machine
end

