-- ==== Sys2Proof/Machine/Operands.lean ====
section
/-! DEFINITION. The value primitives of 00_scope R17 and the reading of operands (30_encoding R74). -/

namespace Sys2Proof.Machine

/-- The word read as a two's-complement integer (00_scope R17). -/
def s32 (w : Word) : Int := w.toInt

/-- The word read as an unsigned integer (00_scope R17). -/
def u32 (w : Word) : Int := (w.toNat : Int)

/-- An 8-bit coefficient as an integer (30_encoding R74). -/
def u8 (b : Byte) : Int := (b.toNat : Int)

/-- The 32-bit word congruent to an integer (00_scope R17). -/
def w32 (v : Int) : Word := BitVec.ofInt 32 v

/-- Floor division, `fdiv(a, b)`, which 00_scope R17 gives for b > 0 only; no step of any state uses it with another b (log 22). -/
def fdiv (a b : Int) : Int := Int.fdiv a b

/-- Division rounded toward zero, `tdiv(a, b)`, which 00_scope R17 gives for b ≠ 0 only. DESIGN CHOICE (log 22): with b = 0 it is 0,
as Lean's division is; only a state that no run reaches divides so. -/
def tdiv (a b : Int) : Int := Int.tdiv a b

/-- Arithmetic right shift over the integers (00_scope R17). -/
def asr (v : Int) (k : Nat) : Int := fdiv v (2 ^ k)

/-- `abs(v)` over the integers (00_scope R17). -/
def absZ (v : Int) : Int := (v.natAbs : Int)

/-- The mode a select operand names; 3 names none (10_state R26, 30_encoding R70, R75). -/
def modeOf (sel : BitVec 2) : Option InputSelect :=
  match sel.toNat with
  | 0 => some .gainA128
  | 1 => some .gainB32
  | 2 => some .gainA64
  | _ => none

/-- The value `SEL` holds for a mode (10_state R26). -/
def InputSelect.code : InputSelect → BitVec 2
  | .gainA128 => 0
  | .gainB32 => 1
  | .gainA64 => 2

/-- The bit of a level: logic-low is 0 (20_memory R50). -/
def levelBit : Level → BitVec 1
  | .low => 0
  | .high => 1

/-- `{SHREG[22:0], b}`: shift left one, the new bit into bit 0 (40_link R87). -/
def shiftBit (v : BitVec 24) (b : Level) : BitVec 24 := (v.extractLsb' 0 23 ++ levelBit b : BitVec (23 + 1))

/-- `SIGN_MASK` (00_scope R12). -/
def signMask : BitVec 24 := 0x800000

/-- The raw code of 24 sampled bits: bit 23 inverted, zero-extended (41_acquisition R90 steps 4 and 5, R91). -/
def rawCode (v : BitVec 24) : Word := (v ^^^ signMask).zeroExtend 32

end Sys2Proof.Machine
end

