-- ==== Sys2Proof/Machine/Flags.lean ====
section
/-! DEFINITION. The fault record and its fields, `STATUS`, and the checks that decide a fault. There are no condition
codes (10_state R37). -/

namespace Sys2Proof.Machine

/-- The fault causes (60_exceptions R121). -/
inductive Cause where
  | illegalCmd
  | linkDown
  | poweredDown
  | divZero
  | badFilterParams
  | unitsRange
  deriving DecidableEq, Repr

/-- The code recorded in `FCAUSE` (60_exceptions R121). -/
def Cause.code : Cause → BitVec 4
  | .illegalCmd => 1
  | .linkDown => 2
  | .poweredDown => 3
  | .divZero => 4
  | .badFilterParams => 5
  | .unitsRange => 6

/-- `{FOPC, 0b000, FCAUSE, FV = 1}` (60_exceptions R123, 10_state R35). -/
def faultRecord (opc : Byte) (c : Cause) : BitVec 16 := (opc ++ 0#3 ++ c.code ++ 1#1 : BitVec (8 + 3 + 4 + 1))

/-- `FAULT[0]`, `FV` (10_state R35). -/
def State.fv (s : State) : Bool := s.fault.getLsbD 0

/-- `FAULT[4:1]`, `FCAUSE` (10_state R35). -/
def State.fcause (s : State) : BitVec 4 := s.fault.extractLsb' 1 4

/-- `FAULT[7:5]`, reserved, reads 0 (10_state R35). -/
def State.freserved (s : State) : BitVec 3 := s.fault.extractLsb' 5 3

/-- `FAULT[15:8]`, `FOPC` (10_state R35). -/
def State.fopc (s : State) : Byte := s.fault.extractLsb' 8 8

/-- The port state (10_state R36). -/
inductive Status where
  | idle
  | busy
  | halted
  deriving DecidableEq, Repr

/-- The number `STATUS` reads as; 3 is never held (10_state R36). -/
def Status.code : Status → BitVec 2
  | .idle => 0
  | .busy => 1
  | .halted => 2

/-- `STATUS` follows `phase` (10_state R36). -/
def State.status (s : State) : Status :=
  match s.phase with
  | .idle => .idle
  | .run _ _ => .busy
  | .halted => .halted

/-- The operand check of SET_FILTER_PARAMS (42_filter R105). -/
def badParams (dlow dhigh : Word) (amin amax : Byte) : Bool :=
  decide (u32 dhigh ≤ u32 dlow) || decide (u8 amin > u8 amax)

/-- The range check of a unit conversion (43_calibration R106). -/
def unitsOutOfRange (q : Int) : Bool := decide (q < -32768) || decide (q > 32767)

end Sys2Proof.Machine
end

