-- ==== Sys2Proof/Machine/Ops.lean ====
section
/-! DEFINITION. The primitives of 00_scope R17 on the state: line events, the draw of a level, `respond`, `phase <- P`,
`raise Fault`, and reset, which is the only way out of HALTED. -/

namespace Sys2Proof.Machine

/-- What one step, or one meaning, answers. -/
abbrev Result := Host.Outcome State Fault Refusal

/-- The level the n-th next `DataSample()` draws: the environment's list first, then the free levels (20_memory R50; log 2). -/
def State.peek (s : State) (n : Nat) : Level :=
  s.draws.getD n (Config.freeLevel (s.drawn + (n - s.draws.length)))

/-- The state after `n` levels have been drawn. -/
def State.skip (s : State) (n : Nat) : State :=
  { s with draws := s.draws.drop n, drawn := s.drawn + (n - s.draws.length) }

/-- Adds one line event to the trace (20_memory R53). -/
def record (e : LineEvent) (s : State) : State := { s with trace := s.trace ++ [e] }

/-- Ghost: whether driving level `l` is a clock transition; driving the line for the first time counts as one
(70_reset R147; log 12). -/
def isTransition (l : Level) (s : State) : Bool := decide (s.clk ≠ some l)

/-- Ghost: a clock transition leaves the sensor powered up (20_memory R64, 70_reset R147; log 12). -/
def wakePower (l : Level) (s : State) : Option PowerMode :=
  if isTransition l s then some .normal else s.sensorPower

/-- Ghost: the selection is unknown after a wake (10_state R41, 91 N7; log 12). -/
def wakeArmed (l : Level) (s : State) : Option Nat :=
  if isTransition l s ∧ s.sensorPower ≠ some .normal then none else s.armed

/-- `ClkSet(l)` (20_memory R49). -/
def clkSet (l : Level) (s : State) : State :=
  record (.clk l) { s with clk := some l, sensorPower := wakePower l s, armed := wakeArmed l s }

/-- `DataSample()`: the level drawn, and the state with the draw taken and recorded (20_memory R50). -/
def dataSample (s : State) : Level × State := (s.peek 0, record (.sample (s.peek 0)) (s.skip 1))

/-- `DirIn()` (20_memory R51). -/
def dirIn (s : State) : State := record .dirIn { s with ddir := .input }

/-- `HoldPD()` (44_control R118). Ghost: the sensor powers down (20_memory R64). -/
def holdPd (s : State) : State := record .holdPd { s with sensorPower := some .powerDown }

/-- `phase <- P` (00_scope R17). -/
def goto (p : Phase) (s : State) : State := { s with phase := p }

/-- `respond(v)`: `RES <- w32(v)` (10_state R34). -/
def respond (v : Int) (s : State) : State := { s with res := some (w32 v) }

/-- Fault entry, the one way a command faults: `FAULT` and `phase` change, nothing else (60_exceptions R123). -/
def raiseFault (opc : Byte) (c : Cause) (s : State) : State :=
  { s with fault := faultRecord opc c, phase := .halted }

/-- Fault entry as the answer of the command `op`, which records its opcode byte (60_exceptions R121). -/
def fail (op : Op) (c : Cause) (s : State) : Result := .next (raiseFault op.opcode c s)

/-- Reset, a platform event and the only return from a fault (60_exceptions R125, 70_reset R134): the registers of the
construction, and nothing at the port; the line events made so far stand, and the environment's levels are its own (log 10). -/
def resetTo (P : Params) (s : State) : State :=
  { State.construct P with draws := s.draws, drawn := s.drawn, trace := s.trace }

/-- The platform's reset with `P_LINES` and `CFG_*`; parameters that break 00_scope R14 are refused (70_reset R134). `P_LINES` is
no state (10_state R23): it says which pins the line events act on, in `pinOps`. -/
def platformReset (P : Params) (s : State) : Result :=
  if P.valid then .next (resetTo P s) else .refused .badConstruction

end Sys2Proof.Machine
end

