-- ==== Sys2Proof/Machine/Link.lean ====
section
/-! DEFINITION. The bit-level link (40_link): `P_TRAIL`, `LinePre`, the line-event steps of one transaction, IS_READY. -/

namespace Sys2Proof.Machine

/-- `P_TRAIL`, the trailing pulses of each mode (00_scope R12, R13, 40_link R88; log 13). -/
def pTrail : InputSelect → Nat
  | .gainA128 => 0
  | .gainB32 => 1
  | .gainA64 => 1

/-- `LinePre()` and then the rest of the command (40_link R83, 60_exceptions R122). -/
def linePre (op : Op) (s : State) (body : Result) : Result :=
  if s.link = false then fail op .linkDown s
  else if s.pwr = .powerDown then fail op .poweredDown s
  else body

/-- A command enters its transaction: `phase = RUN(c, WAIT)` (40_link R86). -/
def beginTransaction (c : Instr) (s : State) : State := goto (.run c .wait) s

/-- One poll of `WaitReady()` (40_link R85, R86); when the sensor is ready, `SHREG <- 0` of Shift24 (R87). -/
def pollStep (c : Instr) (s : State) : State :=
  let (d, t) := dataSample s
  match d with
  | .low => { t with shreg := 0, phase := .run c (.data 0 .hi) }
  | .high => { t with phase := .run c .wait }

/-- `ClkSet(1)` of data pulse i (40_link R87). -/
def dataHigh (c : Instr) (i : Fin 24) (s : State) : State := goto (.run c (.sample i)) (clkSet .high s)

/-- `b <- DataSample()` of data pulse i, while the clock is high (40_link R87). -/
def dataBit (c : Instr) (i : Fin 24) (s : State) : State :=
  let (b, t) := dataSample s
  { t with sbit := b, phase := .run c (.data i .lo) }

/-- The position after the last data pulse: the first trailing pulse, or the sign correction where the mode has none
(40_link R88, 70_reset R143). -/
def afterData (m : InputSelect) : Pos := if pTrail m = 0 then .fix else .trail 1 .hi

/-- The position after data pulse i (40_link R87). -/
def afterPulse (i : Fin 24) (m : InputSelect) : Pos :=
  if h : i.val + 1 < 24 then .data ⟨i.val + 1, h⟩ .hi else afterData m

/-- `ClkSet(0); SHREG <- {SHREG[22:0], b}` of data pulse i (40_link R87). -/
def dataLow (c : Instr) (i : Fin 24) (s : State) : State :=
  let t := clkSet .low s
  { t with shreg := shiftBit t.shreg t.sbit, phase := .run c (afterPulse i s.sel) }

/-- `ClkSet(1)` of trailing pulse j (40_link R84, R88). -/
def trailHigh (c : Instr) (j : Nat) (s : State) : State := goto (.run c (.trail j .lo)) (clkSet .high s)

/-- `ClkSet(0)` of trailing pulse j; the data line is not sampled (40_link R88). -/
def trailLow (c : Instr) (j : Nat) (s : State) : State :=
  goto (.run c (if j < pTrail s.sel then .trail (j + 1) .hi else .fix)) (clkSet .low s)

/-- IS_READY (40_link R89). -/
def execIsReady (s : State) : Result :=
  linePre .isReady s <|
    let (d, t) := dataSample s
    .next (goto .idle (respond (if d = .low then 1 else 0) t))

end Sys2Proof.Machine
end

