-- ==== Sys2Proof/Machine/Acquisition.lean ====
section
/-! DEFINITION. Raw acquisition (41_acquisition): READ_RAW, READ_RAW_AVG, SET_INPUT_SELECT. `exec…` is a command up to its
transaction; `finish…` is what it does with the code at FIX. -/

namespace Sys2Proof.Machine

/-- READ_RAW up to its transaction (41_acquisition R93). -/
def execReadRaw (s : State) : Result :=
  linePre .readRaw s <| .next (beginTransaction .readRaw s)

/-- READ_RAW after its transaction (41_acquisition R93). -/
def finishReadRaw (code : Word) (s : State) : Result := .next (goto .idle (respond (u32 code) s))

/-- READ_RAW_AVG up to its first transaction (41_acquisition R94). -/
def execReadRawAvg (n : BitVec 16) (s : State) : Result :=
  linePre .readRawAvg s <|
    if n = 0 then fail .readRawAvg .divZero s
    else .next (beginTransaction (.readRawAvg n) { s with acc := 0, cnt := n })

/-- READ_RAW_AVG after each of its transactions: the next one, or the mean (41_acquisition R94). DESIGN CHOICE: in states that no
run reaches, n = 0 gives the mean 0 (log 22), and `CNT` = 0 wraps (log 16). -/
def finishReadRawAvg (n : BitVec 16) (code : Word) (s : State) : Result :=
  let t := { s with acc := s.acc + code.toNat, cnt := s.cnt - 1 }
  if t.cnt = 0 then .next (goto .idle (respond (tdiv (t.acc : Int) (n.toNat : Int)) t))
  else .next (beginTransaction (.readRawAvg n) t)

/-- SET_INPUT_SELECT up to its transaction: the mode is stored first (41_acquisition R95). A select of 3 is illegal
(30_encoding R75; log 15). -/
def execSetInputSelect (sel : BitVec 2) (s : State) : Result :=
  match modeOf sel with
  | none => fail .setInputSelect .illegalCmd s
  | some m => linePre .setInputSelect s <| .next (beginTransaction (.setInputSelect sel) { s with sel := m })

/-- SET_INPUT_SELECT after its transaction: the code is discarded (41_acquisition R95). -/
def finishSetInputSelect (s : State) : Result := .next (goto .idle s)

end Sys2Proof.Machine
end

