-- ==== Sys2Proof/Machine/Filter.lean ====
section
/-! DEFINITION. The adaptive filter (42_filter): FILTER_UPDATE, READ_FILTERED, SET_FILTER_PARAMS. -/

namespace Sys2Proof.Machine

/-- `Alpha(delta)`, the three branches in the source's order (42_filter R98). -/
def alpha (delta : Int) (s : State) : Int :=
  if delta ≤ u32 s.dlow then u8 s.amin
  else if delta ≥ u32 s.dhigh then u8 s.amax
  else u8 s.amin + fdiv ((delta - u32 s.dlow) * (u8 s.amax - u8 s.amin)) (u32 s.dhigh - u32 s.dlow)

/-- Step 3 of the update: how far `EMA` moves when the input differs from it by `d` (42_filter R99). -/
def emaStep (d : Int) (s : State) : Int := asr (d * alpha (absZ d) s) 8

/-- The new `EMA`: steps 1 to 3 of the update (42_filter R96, R99). -/
def nextEma (raw : Int) (s : State) : Word := w32 (s32 s.ema + emaStep (raw - s32 s.ema) s)

/-- The new `STABLE`: step 4 of the update, the strict dead-band on the new `EMA` (42_filter R101). -/
def nextStable (ema : Word) (s : State) : Word :=
  if absZ (s32 ema - s32 s.stable) > u32 s.deadband then ema else s.stable

/-- `FilterUpdateP(raw)`: the value returned and the state after it (42_filter R96, R97). -/
def filterUpdateP (raw : Int) (s : State) : Int × State :=
  if s.initF = false then (raw, { s with ema := w32 raw, stable := w32 raw, initF := true })
  else
    (s32 (nextStable (nextEma raw s) s),
     { s with ema := nextEma raw s, stable := nextStable (nextEma raw s) s })

/-- FILTER_UPDATE (42_filter R103). -/
def execFilterUpdate (raw : Word) (s : State) : Result :=
  let (v, t) := filterUpdateP (s32 raw) s
  .next (goto .idle (respond v t))

/-- READ_FILTERED up to its transaction (42_filter R104). -/
def execReadFiltered (s : State) : Result :=
  linePre .readFiltered s <| .next (beginTransaction .readFiltered s)

/-- READ_FILTERED after its transaction (42_filter R104). -/
def finishReadFiltered (code : Word) (s : State) : Result :=
  let (v, t) := filterUpdateP (u32 code) s
  .next (goto .idle (respond v t))

/-- SET_FILTER_PARAMS: all five registers together, or none (42_filter R105). -/
def execSetFilterParams (dlow dhigh : Word) (amin amax : Byte) (db : Word) (s : State) : Result :=
  if badParams dlow dhigh amin amax then fail .setFilterParams .badFilterParams s
  else .next (goto .idle { s with dlow := dlow, dhigh := dhigh, amin := amin, amax := amax, deadband := db })

end Sys2Proof.Machine
end

