-- ==== Sys2Proof/Machine/Calibration.lean ====
section
/-! DEFINITION. Calibration and scaling (43_calibration): TARE, SET_SCALE, SET_OFFSET, TO_UNITS, READ_RAW_UNITS,
READ_FILTERED_UNITS. -/

namespace Sys2Proof.Machine

/-- `ToUnitsP(count)`: the units, or the cause of the fault (43_calibration R106). -/
def toUnitsP (count : Int) (s : State) : Except Cause Int :=
  if s.scale = 0 then .error .divZero
  else if unitsOutOfRange (tdiv (count - s32 s.offset) (s32 s.scale)) then .error .unitsRange
  else .ok (tdiv (count - s32 s.offset) (s32 s.scale))

/-- `q <- ToUnitsP(count); respond(w32(q)); phase <- IDLE`, or the fault (43_calibration R110 to R112). -/
def respondUnits (op : Op) (count : Int) (s : State) : Result :=
  .next <|
    match toUnitsP count s with
    | .ok q => goto .idle (respond q s)
    | .error c => raiseFault op.opcode c s

/-- TARE up to its transaction (43_calibration R107). -/
def execTare (s : State) : Result := linePre .tare s <| .next (beginTransaction .tare s)

/-- TARE after its transaction (43_calibration R107). -/
def finishTare (code : Word) (s : State) : Result :=
  let (v, t) := filterUpdateP (u32 code) s
  .next (goto .idle (respond v { t with offset := w32 v }))

/-- SET_SCALE; 0 is accepted (43_calibration R108). -/
def execSetScale (value : Word) (s : State) : Result := .next (goto .idle { s with scale := value })

/-- SET_OFFSET (43_calibration R109). -/
def execSetOffset (value : Word) (s : State) : Result := .next (goto .idle { s with offset := value })

/-- TO_UNITS (43_calibration R110). -/
def execToUnits (count : Word) (s : State) : Result := respondUnits .toUnits (s32 count) s

/-- READ_RAW_UNITS up to its transaction: `SCALE` is checked before any line event (43_calibration R111). -/
def execReadRawUnits (s : State) : Result :=
  linePre .readRawUnits s <|
    if s.scale = 0 then fail .readRawUnits .divZero s else .next (beginTransaction .readRawUnits s)

/-- READ_RAW_UNITS after its transaction (43_calibration R111). -/
def finishReadRawUnits (code : Word) (s : State) : Result := respondUnits .readRawUnits (u32 code) s

/-- READ_FILTERED_UNITS up to its transaction: `SCALE` is checked before any line event (43_calibration R112). -/
def execReadFilteredUnits (s : State) : Result :=
  linePre .readFilteredUnits s <|
    if s.scale = 0 then fail .readFilteredUnits .divZero s else .next (beginTransaction .readFilteredUnits s)

/-- READ_FILTERED_UNITS after its transaction: the filter's writes stand when the range check faults
(43_calibration R112, 60_exceptions R124). -/
def finishReadFilteredUnits (code : Word) (s : State) : Result :=
  let (v, t) := filterUpdateP (u32 code) s
  respondUnits .readFilteredUnits v t

end Sys2Proof.Machine
end

