-- ==== Sys2Proof/Machine/Control.lean ====
section
/-! DEFINITION. Initialisation and power control (44_control): INIT, POWER_DOWN, POWER_UP. -/

namespace Sys2Proof.Machine

/-- INIT through its first line event, `DirIn()` (44_control R115). A select of 3 is illegal (30_encoding R75; log 15). -/
def execInit (sel : BitVec 2) (s : State) : Result :=
  match modeOf sel with
  | none => fail .init .illegalCmd s
  | some _ => .next (goto (.run (.init sel) .lines) (dirIn s))

/-- INIT through its second line event, `ClkSet(0)`, and the writes after it, up to the transaction (44_control R115). -/
def initLines (sel : BitVec 2) (s : State) : Result :=
  match modeOf sel with
  | none => .fault .noSuchPosition
  | some m =>
    .next (beginTransaction (.init sel) { clkSet .low s with link := true, pwr := .normal, sel := m })

/-- INIT after its transaction: the code is discarded (44_control R115). -/
def finishInit (s : State) : Result := .next (goto .idle s)

/-- POWER_DOWN through its first line event, `ClkSet(1)` (44_control R116). -/
def execPowerDown (s : State) : Result :=
  if s.link = false then fail .powerDown .linkDown s
  else if s.pwr = .powerDown then .next (goto .idle s)
  else .next (goto (.run .powerDown .hold) (clkSet .high s))

/-- POWER_DOWN's `HoldPD()` and its end (44_control R116, R118). -/
def finishPowerDown (s : State) : Result := .next (goto .idle { holdPd s with pwr := .powerDown })

/-- POWER_UP (44_control R117). -/
def execPowerUp (s : State) : Result :=
  if s.link = false then fail .powerUp .linkDown s
  else if s.pwr = .normal then .next (goto .idle s)
  else .next (goto .idle { clkSet .low s with pwr := .normal })

end Sys2Proof.Machine
end

