-- ==== Sys2Proof/Machine/Sequencer.lean ====
section
/-! DEFINITION. The sequencer inside a command: one line event, or the sign correction, from each position (10_state R38). -/

namespace Sys2Proof.Machine

/-- Position `lines`: only INIT has it. -/
def linesStep (c : Instr) (s : State) : Result :=
  match c with
  | .init sel => initLines sel s
  | .powerDown | .powerUp | .isReady | .readRaw | .readRawAvg _ | .setInputSelect _ | .filterUpdate _ | .readFiltered
  | .setFilterParams _ _ _ _ _ | .tare | .setScale _ | .setOffset _ | .toUnits _ | .readRawUnits
  | .readFilteredUnits => .fault .noSuchPosition

/-- Position `hold`: only POWER_DOWN has it. -/
def holdStep (c : Instr) (s : State) : Result :=
  match c with
  | .powerDown => finishPowerDown s
  | .init _ | .powerUp | .isReady | .readRaw | .readRawAvg _ | .setInputSelect _ | .filterUpdate _ | .readFiltered
  | .setFilterParams _ _ _ _ _ | .tare | .setScale _ | .setOffset _ | .toUnits _ | .readRawUnits
  | .readFilteredUnits => .fault .noSuchPosition

/-- What each command does with the code of a transaction; a command without a transaction has no such position. -/
def afterTransaction (c : Instr) (code : Word) (s : State) : Result :=
  match c with
  | .init _ => finishInit s
  | .readRaw => finishReadRaw code s
  | .readRawAvg n => finishReadRawAvg n code s
  | .setInputSelect _ => finishSetInputSelect s
  | .readFiltered => finishReadFiltered code s
  | .tare => finishTare code s
  | .readRawUnits => finishReadRawUnits code s
  | .readFilteredUnits => finishReadFilteredUnits code s
  | .powerDown | .powerUp | .isReady | .filterUpdate _ | .setFilterParams _ _ _ _ _ | .setScale _ | .setOffset _
  | .toUnits _ => .fault .noSuchPosition

/-- Position FIX: the sign correction, the ghost `armed` of a completed transaction, and the rest of the command up to its
next line event or its end (41_acquisition R90 steps 4 and 5, 10_state R41). -/
def fixStep (c : Instr) (s : State) : Result :=
  afterTransaction c (rawCode s.shreg) { s with armed := some (pTrail s.sel) }

/-- One step of the running command from its position (10_state R38). Where the command's pseudocode does not have the position,
or `TRAIL(j)` has j outside 1 to `P_TRAIL(SEL)`, no run stands there and the model's choice is (DESIGN CHOICE, log 16): `lines`,
`hold` and FIX stop with `noSuchPosition`; WAIT, DATA, `sample` and TRAIL make their line event and go on as a transaction's do, up
to FIX. -/
def advance (c : Instr) (p : Pos) (s : State) : Result :=
  match p with
  | .lines => linesStep c s
  | .hold => holdStep c s
  | .wait => .next (pollStep c s)
  | .data i .hi => .next (dataHigh c i s)
  | .sample i => .next (dataBit c i s)
  | .data i .lo => .next (dataLow c i s)
  | .trail j .hi => .next (trailHigh c j s)
  | .trail j .lo => .next (trailLow c j s)
  | .fix => fixStep c s

end Sys2Proof.Machine
end

