-- ==== Sys2Proof/Machine/Dispatch.lean ====
section
/-! DEFINITION. One arm per command: what it does when the block takes it from the port. -/

namespace Sys2Proof.Machine

def exec (i : Instr) (s : State) : Host.Outcome State Fault Refusal :=
  match i with
  | .init sel => Sys2Proof.Machine.execInit sel s
  | .powerDown => Sys2Proof.Machine.execPowerDown s
  | .powerUp => Sys2Proof.Machine.execPowerUp s
  | .isReady => Sys2Proof.Machine.execIsReady s
  | .readRaw => Sys2Proof.Machine.execReadRaw s
  | .readRawAvg n => Sys2Proof.Machine.execReadRawAvg n s
  | .setInputSelect sel => Sys2Proof.Machine.execSetInputSelect sel s
  | .filterUpdate raw => Sys2Proof.Machine.execFilterUpdate raw s
  | .readFiltered => Sys2Proof.Machine.execReadFiltered s
  | .setFilterParams dlow dhigh amin amax db => Sys2Proof.Machine.execSetFilterParams dlow dhigh amin amax db s
  | .tare => Sys2Proof.Machine.execTare s
  | .setScale value => Sys2Proof.Machine.execSetScale value s
  | .setOffset value => Sys2Proof.Machine.execSetOffset value s
  | .toUnits count => Sys2Proof.Machine.execToUnits count s
  | .readRawUnits => Sys2Proof.Machine.execReadRawUnits s
  | .readFilteredUnits => Sys2Proof.Machine.execReadFilteredUnits s

end Sys2Proof.Machine
end

