-- ==== Sys2Proof/Machine/HostPort.lean ====
section
/-! DEFINITION. The host's side of the command port (20_memory R44, 70_reset R139): how the block takes a packet, and the
host's moves. -/

namespace Sys2Proof.Machine

/-- What the port gives an IDLE block. -/
def takePacket (s : State) : Except DecodeError (Instr × State) :=
  match decode s.port with
  | .ok (i, rest) => .ok (i, { s with port := rest })
  | .error e => .error e

/-- An illegal header faults when it arrives: no argument word is taken (30_encoding R78; log 9). -/
def illegalHeader (s : State) : State :=
  raiseFault (hdrOpc (s.port.headD 0)) .illegalCmd { s with port := s.port.tail }

/-- What an IDLE block does when the port has no complete legal packet: it waits for the header or the arguments still
to come (20_memory R47), or takes the illegal header. -/
def noPacket (e : DecodeError) (s : State) : State :=
  match e with
  | .noHeader => s
  | .missingArguments => s
  | .unknownOpcode => illegalHeader s
  | .reservedBits => illegalHeader s
  | .illegalSelect => illegalHeader s

/-- A HALTED block drops a word of the packets behind the one that faulted (60_exceptions R125, 70_reset R138; log 8). -/
def ignoreWord (s : State) : State := { s with port := s.port.tail }

/-- The port with the packet of `nbits` bits `w` written to it and the block IDLE, so that the next step takes it. -/
def placePacket (s : State) (nbits w : Nat) : State := { s with phase := .idle, port := tablePacket nbits w }

/-- The registers the host can read (10_state R25, 92 D27). -/
inductive HostReg where
  | res
  | fault
  | status
  deriving DecidableEq, Repr

/-- A host read, at any time: the value as a word (zero-extended, log 11). A read of `RES` before the first `respond` is one that the
host's duty forbids and that a model must fault (10_state R34, 70_reset R135 and R139, 92 D15, 93 I11). A read changes nothing. -/
def hostRead (r : HostReg) (s : State) : Except Fault Word :=
  match r with
  | .res =>
    match s.res with
    | some v => .ok v
    | none => .error .resNoValue
  | .fault => .ok (s.fault.zeroExtend 32)
  | .status => .ok (s.status.code.zeroExtend 32)

/-- A host write: while IDLE a whole packet joins the port, and the host has no move that writes less or more; a HALTED block
ignores it, at once; while BUSY the host has no such move (70_reset R139, 60_exceptions R125, 93 I25, I26). -/
def hostWrite (ws : List Word) (s : State) : Result :=
  match s.status with
  | .idle => if wholePacket ws then .next { s with port := s.port ++ ws } else .refused .partialPacket
  | .halted => .next s
  | .busy => .refused .portBusy

/-- The start of a run: the construction's state, the packets the host will write in order, and the first draws
(70_reset R138). -/
def launch (P : Params) (packets : List (List Word)) (draws : List Level) : State :=
  { State.construct P with port := packets.flatten, draws := draws }

end Sys2Proof.Machine
end

