-- ==== Sys2Proof/Machine/Step.lean ====
section
/-! DEFINITION. One step of the block (10_state R38; log 1): take a packet, advance the running command, or ignore a word. -/

namespace Sys2Proof.Machine

/-- IDLE: a complete legal packet is taken and its command begins; RUN(c, p): one position; HALTED: a word is ignored. -/
def step (s : State) : Host.Outcome State Fault Refusal :=
  match s.phase with
  | .idle =>
    match takePacket s with
    | .ok (i, t) => exec i t
    | .error e => .next (noPacket e s)
  | .run c p => advance c p s
  | .halted => .next (ignoreWord s)

/-- The state with one packet of the opcode table at the port of an IDLE block (log 8). -/
def State.withFetchWord (s : State) (nbits w : Nat) : State := placePacket s nbits w

end Sys2Proof.Machine
end

