-- ==== Sys2Proof/Machine/Adapter.lean ====
section
/-! DEFINITION. The platform adapter `P_LINES` (20_memory R43, 60_exceptions R130): the block's line events as operations on
the two GPIO lines it is bound to. -/

namespace Sys2Proof.Machine

/-- The operations of the GPIO line interface (20_memory R43) on a line of the platform; a read with the level it gave. -/
inductive PinOp where
  | setHigh (pin : Nat)
  | setLow (pin : Nat)
  | read (pin : Nat) (level : Level)
  | setDirection (pin : Nat) (d : Direction)
  deriving DecidableEq, Repr

/-- The adapter operations of one line event under the binding `L` (20_memory R49 to R51); the hold of HOLD_PD is a delay and no
operation (44_control R118). -/
def pinOps (L : Lines) (e : LineEvent) : List PinOp :=
  match e with
  | .clk .high => [.setHigh L.clockOut]
  | .clk .low => [.setLow L.clockOut]
  | .sample d => [.read L.dataLine d]
  | .dirIn => [.setDirection L.dataLine .input]
  | .holdPd => []

/-- What the platform's lines see of a line trace. -/
def pinTrace (L : Lines) (es : List LineEvent) : List PinOp := es.flatMap (pinOps L)

end Sys2Proof.Machine
end

