-- ==== Sys2Proof/Safety.lean ====
section
/-! DEFINITION. The terms claims are stated in: runs, the invariant of the block, a transaction as a whole, the registers
and who writes them, what no rule reads, and the timing bounds of a trace. -/

namespace Sys2Proof.Machine

/-- `k` steps, stopping at the first stop. -/
def run (k : Nat) (s : State) : Result := Host.Core.run Sys2Proof.core k s

/-- Applies `f` to a next state and leaves a stop as it is. -/
def mapNext (f : State → State) (r : Result) : Result :=
  match r with
  | .next s => .next (f s)
  | .fault e => .fault e
  | .refused e => .refused e

/-! ### The invariant of the block -/

/-- The tuning invariants (10_state R33). -/
def tuningOk (s : State) : Prop := u32 s.dlow < u32 s.dhigh ∧ u8 s.amin ≤ u8 s.amax

/-- `FAULT` is 0 until the block halts, and then a record of some fault (10_state R35, R36, 60_exceptions R123). -/
def faultOk (s : State) : Prop :=
  (s.phase = .halted ∧ ∃ opc c, s.fault = faultRecord opc c) ∨ (s.phase ≠ .halted ∧ s.fault = 0)

/-- What the running command has established when it stands in a transaction: its operands are legal, its mode is stored,
its sum is bounded by the codes summed, its scale is checked (41_acquisition R94, R95, 43_calibration R111, R112, 44_control R115). -/
def inTransaction (c : Instr) (s : State) : Prop :=
  match c with
  | .init sel => modeOf sel = some s.sel
  | .setInputSelect sel => modeOf sel = some s.sel
  | .readRawAvg n => 0 < s.cnt.toNat ∧ s.cnt.toNat ≤ n.toNat ∧ s.acc ≤ (n.toNat - s.cnt.toNat) * (2 ^ 24 - 1)
  | .readRawUnits => s.scale ≠ 0
  | .readFilteredUnits => s.scale ≠ 0
  | .readRaw => True
  | .readFiltered => True
  | .tare => True
  | .powerDown => False
  | .powerUp => False
  | .isReady => False
  | .filterUpdate _ => False
  | .setFilterParams _ _ _ _ _ => False
  | .setScale _ => False
  | .setOffset _ => False
  | .toUnits _ => False

/-- A RUN position is one the running command has, and the link is up where it makes pulses (10_state R38, 40_link R83). -/
def phaseOk (s : State) : Prop :=
  match s.phase with
  | .idle => True
  | .halted => True
  | .run c .lines => ∃ sel, c = .init sel ∧ modeOf sel ≠ none
  | .run c .hold => c = .powerDown ∧ s.link = true ∧ s.pwr = .normal
  | .run c (.trail j _) => inTransaction c s ∧ s.link = true ∧ s.pwr = .normal ∧ 1 ≤ j ∧ j ≤ pTrail s.sel
  | .run c _ => inTransaction c s ∧ s.link = true ∧ s.pwr = .normal

/-- The level of the clock line that `PWR` and `LINK` call for between commands (10_state R29). -/
def restingClk (s : State) : Option Level :=
  if s.link then (match s.pwr with | .normal => some .low | .powerDown => some .high) else none

/-- The level of the clock line at each point (10_state R29, 40_link R84, R87). -/
def expectedClk (s : State) : Option Level :=
  match s.phase with
  | .idle => restingClk s
  | .halted => restingClk s
  | .run _ .lines => restingClk s
  | .run _ .hold => some .high
  | .run _ .wait => some .low
  | .run _ (.data _ .hi) => some .low
  | .run _ (.sample _) => some .high
  | .run _ (.data _ .lo) => some .high
  | .run _ (.trail _ .hi) => some .low
  | .run _ (.trail _ .lo) => some .high
  | .run _ .fix => some .low

/-- `CLK` is at its expected level, the data line is an input, and `PWR` is Normal until INIT (10_state R29, R30). -/
def linesOk (s : State) : Prop :=
  s.clk = expectedClk s ∧ s.ddir = .input ∧ (s.link = false → s.pwr = .normal)

/-- `PWR` is the sensor's power state, unknown before INIT (10_state R27, R41). -/
def sensorOk (s : State) : Prop := s.sensorPower = if s.link then some s.pwr else none

/-- Outside a transaction the armed selection is that of `SEL`, or unknown (10_state R41, R42). -/
def armedOk (s : State) : Prop :=
  match s.phase with
  | .idle => s.armed = none ∨ s.armed = some (pTrail s.sel)
  | .halted => s.armed = none ∨ s.armed = some (pTrail s.sel)
  | .run _ .lines => s.armed = none ∨ s.armed = some (pTrail s.sel)
  | .run _ .hold => s.armed = none ∨ s.armed = some (pTrail s.sel)
  | .run _ _ => True

/-- While the block takes packets, whole packets stand at its port (20_memory R47, 70_reset R138, R139). -/
def portOk (s : State) : Prop :=
  s.phase = .halted ∨ ∃ packets : List (List Word), (∀ p ∈ packets, wholePacket p = true) ∧ s.port = packets.flatten

/-- What every state of a run satisfies. -/
structure Inv (s : State) : Prop where
  tuning : tuningOk s
  fault  : faultOk s
  phase  : phaseOk s
  lines  : linesOk s
  sensor : sensorOk s
  armed  : armedOk s
  port   : portOk s

/-! ### A transaction as a whole (41_acquisition R90) -/

/-- The next transaction's poll draws 1 `k` times and then 0: one case of `P_READY_EVENTUALLY` (70_reset R138). -/
def readyAfter (k : Nat) (s : State) : Prop := (∀ j, j < k → s.peek j = .high) ∧ s.peek k = .low

/-- The 24 levels a transaction samples after `k` polls of 1 and one of 0. -/
def sampledBits (k : Nat) (s : State) : List Level := (List.range 24).map (fun i => s.peek (k + 1 + i))

/-- The bits shifted in, most significant first (40_link R87). -/
def shiftIn (bs : List Level) : BitVec 24 := bs.foldl shiftBit 0

/-- The raw code of that transaction (41_acquisition R90, R91). -/
def sampledCode (k : Nat) (s : State) : Word := rawCode (shiftIn (sampledBits k s))

/-- The line events of a transaction, in order (41_acquisition R90). -/
def transactionTrace (k : Nat) (bs : List Level) (p : Nat) : List LineEvent :=
  List.replicate k (.sample .high) ++ [.sample .low] ++ bs.flatMap (fun b => [.clk .high, .sample b, .clk .low])
    ++ (List.replicate p [.clk .high, .clk .low]).flatten

/-- The registers, the trace, the draws and the ghosts after a whole transaction begun in `s`. -/
def transact (k : Nat) (s : State) : State :=
  { s.skip (k + 25) with
    clk := some .low
    shreg := shiftIn (sampledBits k s)
    sbit := s.peek (k + 24)
    trace := s.trace ++ transactionTrace k (sampledBits k s) (pTrail s.sel)
    armed := some (pTrail s.sel)
    sensorPower := some .normal }

/-- The steps of a transaction: the polls, three events a data pulse, two a trailing pulse, and the sign correction. -/
def transactionSteps (k : Nat) (m : InputSelect) : Nat := (k + 1) + 72 + 2 * pTrail m + 1

/-- `n` transactions in a row, each ready after its own number of polls. -/
def readyAll : List Nat → State → Prop
  | [], _ => True
  | k :: ks, s => readyAfter k s ∧ readyAll ks (transact k s)

/-- The state after transactions in a row. -/
def transactAll : List Nat → State → State
  | [], s => s
  | k :: ks, s => transactAll ks (transact k s)

/-- The sum of the codes of transactions in a row. -/
def codeSum : List Nat → State → Nat
  | [], _ => 0
  | k :: ks, s => (sampledCode k s).toNat + codeSum ks (transact k s)

/-- The steps of transactions in a row under one mode. -/
def stepsAll (m : InputSelect) : List Nat → Nat
  | [] => 0
  | k :: ks => transactionSteps k m + stepsAll m ks

/-! ### Registers and who writes them (10_state R25) -/

/-- The numbered registers that a command writes, 0 to 15 (10_state R25). -/
inductive Reg where
  | sel | pwr | link | clk | ddir | offset | scale | ema | stable | initF | dlow | dhigh | amin | amax | deadband | res
  deriving DecidableEq, Repr

/-- Whether two states hold the same value in a register. -/
def Reg.same (r : Reg) (s t : State) : Prop :=
  match r with
  | .sel => s.sel = t.sel
  | .pwr => s.pwr = t.pwr
  | .link => s.link = t.link
  | .clk => s.clk = t.clk
  | .ddir => s.ddir = t.ddir
  | .offset => s.offset = t.offset
  | .scale => s.scale = t.scale
  | .ema => s.ema = t.ema
  | .stable => s.stable = t.stable
  | .initF => s.initF = t.initF
  | .dlow => s.dlow = t.dlow
  | .dhigh => s.dhigh = t.dhigh
  | .amin => s.amin = t.amin
  | .amax => s.amax = t.amax
  | .deadband => s.deadband = t.deadband
  | .res => s.res = t.res

/-- The commands that run a transaction. -/
def transactionOps : List Op :=
  [.init, .readRaw, .readRawAvg, .setInputSelect, .readFiltered, .tare, .readRawUnits, .readFilteredUnits]

/-- The commands that run the filter. -/
def filterOps : List Op := [.filterUpdate, .readFiltered, .readFilteredUnits, .tare]

/-- The "written by" column of 10_state R25; for `CLK`, the commands that call `ClkSet`; for `RES`, those that `respond`. -/
def Reg.writers (r : Reg) : List Op :=
  match r with
  | .sel => [.init, .setInputSelect]
  | .pwr => [.init, .powerDown, .powerUp]
  | .link => [.init]
  | .clk => .powerDown :: .powerUp :: transactionOps
  | .ddir => [.init]
  | .offset => [.setOffset, .tare]
  | .scale => [.setScale]
  | .ema => filterOps
  | .stable => filterOps
  | .initF => filterOps
  | .dlow => [.setFilterParams]
  | .dhigh => [.setFilterParams]
  | .amin => [.setFilterParams]
  | .amax => [.setFilterParams]
  | .deadband => [.setFilterParams]
  | .res => [.isReady, .readRaw, .readRawAvg, .filterUpdate, .readFiltered, .tare, .toUnits, .readRawUnits, .readFilteredUnits]

/-- The command a step runs: the running one, or the one the port gives. -/
def currentCommand (s : State) : Option Instr :=
  match s.phase with
  | .run c _ => some c
  | .halted => none
  | .idle =>
    match takePacket s with
    | .ok (i, _) => some i
    | .error _ => none

/-! ### The words of the spec's tables, as numbers (30_encoding) -/

/-- The format of an opcode (30_encoding R76); `none` for the 240 values the map does not have. -/
def formatAt (opc : Nat) : Option Format :=
  match opc with
  | 0x01 => some .S
  | 0x02 => some .N
  | 0x03 => some .N
  | 0x10 => some .N
  | 0x11 => some .N
  | 0x12 => some .C
  | 0x13 => some .S
  | 0x20 => some .W
  | 0x21 => some .N
  | 0x22 => some .F
  | 0x30 => some .N
  | 0x31 => some .W
  | 0x32 => some .W
  | 0x33 => some .W
  | 0x34 => some .N
  | 0x35 => some .N
  | _ => none

/-- The illegal headers of 30_encoding R78, on the header as a number. -/
def headerIllegal (n : Nat) : Prop :=
  match formatAt (n % 256) with
  | none => True
  | some .N => n / 2 ^ 8 ≠ 0
  | some .S => n / 2 ^ 10 ≠ 0 ∨ n / 2 ^ 8 % 4 = 3
  | some .C => n / 2 ^ 24 ≠ 0
  | some .W => n / 2 ^ 8 ≠ 0
  | some .F => n / 2 ^ 24 ≠ 0

/-! ### The preconditions of a line command (40_link R83) -/

/-- The lines are configured and the sensor is powered. -/
def linkUp (s : State) : Prop := s.link = true ∧ s.pwr = .normal

/-- The two faults of `LinePre`, in their order, with nothing else changed (40_link R83, 60_exceptions R122, R123). -/
def lineFaults (i : Instr) (s : State) : Prop :=
  (s.link = false → exec i s = .next (raiseFault i.op.opcode .linkDown s)) ∧
  (s.link = true → s.pwr = .powerDown → exec i s = .next (raiseFault i.op.opcode .poweredDown s))

/-! ### What no rule reads -/

/-- The state without the trace and the ghosts (20_memory R53, 10_state R41). -/
def forgetObserved (s : State) : State := { s with trace := [], armed := none, sensorPower := none }

/-- The state without `EMA` and `STABLE` while the filter is not seeded (10_state R32, 42_filter R97). -/
def forgetUnseeded (s : State) : State := if s.initF then s else { s with ema := 0, stable := 0 }

/-- Whether `SHREG` holds something at a position: from the first data pulse to the sign correction. -/
def Pos.usesShreg : Pos → Bool
  | .lines => false
  | .hold => false
  | .wait => false
  | .data _ _ => true
  | .sample _ => true
  | .trail _ _ => true
  | .fix => true

/-- Whether the sampled bit is still to be shifted in at a position. -/
def Pos.usesBit : Pos → Bool
  | .data _ .lo => true
  | .data _ .hi => false
  | .lines => false
  | .hold => false
  | .wait => false
  | .sample _ => false
  | .trail _ _ => false
  | .fix => false

/-- Whether `SHREG` is in use. -/
def usesShreg (s : State) : Bool :=
  match s.phase with
  | .run _ p => p.usesShreg
  | .idle => false
  | .halted => false

/-- Whether the local `b` is in use. -/
def usesBit (s : State) : Bool :=
  match s.phase with
  | .run _ p => p.usesBit
  | .idle => false
  | .halted => false

/-- Whether `ACC` and `CNT` are in use: inside READ_RAW_AVG. -/
def usesSum (s : State) : Bool :=
  match s.phase with
  | .run c _ => c.op == .readRawAvg
  | .idle => false
  | .halted => false

/-- The state without the scratch registers that are not in use (10_state R39). -/
def forgetScratch (s : State) : State :=
  { s with
    shreg := if usesShreg s then s.shreg else 0
    sbit := if usesBit s then s.sbit else .low
    acc := if usesSum s then s.acc else 0
    cnt := if usesSum s then s.cnt else 0 }

/-! ### Time as lower bounds (20_memory R52, 70_reset R140, R151) -/

/-- The least time, in nanoseconds, that a line event adds: the settle after a clock edge; for HOLD_PD, what the hold lasts beyond
the settle of the CLK(1) before it, which falls inside the hold (70_reset R151). -/
def LineEvent.minTime : LineEvent → Nat
  | .clk _ => Config.tSettle
  | .sample _ => 0
  | .dirIn => 0
  | .holdPd => Config.tPd - Config.tSettle

/-- The least time a trace takes. -/
def traceMinTime (es : List LineEvent) : Nat := (es.map LineEvent.minTime).sum

/-! ### Runs and their moves (70_reset R138, R139) -/

/-- What can happen to the block: it steps, the host writes, the platform resets it. -/
inductive Move where
  | step
  | write (ws : List Word)
  | reset (P : Params)
  deriving DecidableEq, Repr

/-- The answer to a move. -/
def applyMove (m : Move) (s : State) : Result :=
  match m with
  | .step => step s
  | .write ws => hostWrite ws s
  | .reset P => platformReset P s

/-- The states that launches with valid parameters and whole packets and then any moves reach. -/
inductive Reachable : State → Prop where
  | launched (P : Params) (packets : List (List Word)) (ds : List Level) (h : P.valid = true)
      (hp : ∀ p ∈ packets, wholePacket p = true) : Reachable (launch P packets ds)
  | moved (m : Move) (s t : State) (hs : Reachable s) (h : applyMove m s = .next t) : Reachable t

/-- A completed run: the last command has returned, without a fault (70_reset R138). -/
def completed (s : State) : Prop := s.phase = .idle ∧ s.port = [] ∧ s.fv = false

/-- A faulted run (70_reset R138). -/
def faulted (s : State) : Prop := s.phase = .halted ∧ s.fv = true

/-! ### Whole runs under an environment that chooses every draw (70_reset R138) -/

/-- One step while the data line carries the level `d`: the sample in it, of which there is at most one, draws `d`
(20_memory R50, R54). -/
def stepUnder (d : Level) (s : State) : Result := step { s with draws := [d] }

/-- `k` steps under the environment `env`: at the n-th step the data line carries `env n`. -/
def runUnder : (Nat → Level) → Nat → State → Result
  | _, 0, s => .next s
  | env, k + 1, s =>
    match stepUnder (env 0) s with
    | .next t => runUnder (fun n => env (n + 1)) k t
    | .fault e => .fault e
    | .refused e => .refused e

/-- Whether the step from `s` to `t` ended a command without a fault. -/
def commandEnds (s t : State) : Bool := (currentCommand s).isSome && decide (t.phase = .idle)

/-- The values of `RES` after each command that ended in those `k` steps, the first command's first. -/
def resultsUnder : (Nat → Level) → Nat → State → List (Option Word)
  | _, 0, _ => []
  | env, k + 1, s =>
    match stepUnder (env 0) s with
    | .next t => (if commandEnds s t then [t.res] else []) ++ resultsUnder (fun n => env (n + 1)) k t
    | .fault _ => []
    | .refused _ => []

/-- The run from `s` under `env` ends Completed. -/
def completesUnder (env : Nat → Level) (s : State) : Prop := ∃ k t, runUnder env k s = .next t ∧ completed t

/-- The run from `s` under `env` ends Faulted. -/
def faultsUnder (env : Nat → Level) (s : State) : Prop := ∃ k t, runUnder env k s = .next t ∧ faulted t

/-- The run from `s` under `env` is Hung: from some step on, one command polls and draws 1 forever (60_exceptions R120). -/
def hungUnder (env : Nat → Level) (s : State) : Prop :=
  ∃ k c, ∀ n, k ≤ n → env n = .high ∧ ∃ t, runUnder env n s = .next t ∧ t.phase = .run c .wait

/-- `P_READY_EVENTUALLY`: in every transaction of the run, some poll draws 0 after finitely many polls. While a command waits,
every step is a poll. -/
def readyEventually (env : Nat → Level) (s : State) : Prop :=
  ∀ k c t, runUnder env k s = .next t → t.phase = .run c .wait → ∃ j, env (k + j) = .low

end Sys2Proof.Machine
end

