-- ==== Sys2Proof/Certificates/Slice0/Obligations.lean ====
section
/-! DEFINITION. The statements for the provers. Each docstring names the rules of spec/ it formalises. -/

open Sys2Proof Sys2Proof.Machine

/-! ### Encoding -/

/-- 30_encoding: no bit of an encoding is dropped, whatever stands behind the packet. -/
def Obligations.DecodeOfEncodeIsTheCommand : Prop :=
  ∀ (i : Instr) (rest : List Word), i.wf = true → decode (encode i ++ rest) = .ok (i, rest)

/-- 30_encoding R68, R78, R79: the decoder accepts nothing but the packets of well-formed commands. -/
def Obligations.DecodeAcceptsOnlyEncodings : Prop :=
  ∀ (ws : List Word) (i : Instr) (rest : List Word), decode ws = .ok (i, rest) → i.wf = true ∧ ws = encode i ++ rest

/-- 30_encoding R79: the header decoder, on the header as a number. -/
def Obligations.HeaderDecoderFollowsTheMap : Prop :=
  ∀ h : Word,
    ((∃ e, decodeHeader h = .error e) ↔ headerIllegal h.toNat) ∧
    (∀ op, decodeHeader h = .ok op →
      op.opcode.toNat = h.toNat % 256 ∧ formatAt (h.toNat % 256) = some op.format ∧
      packetLength h = op.format.words) ∧
    (hdrSel h).toNat = h.toNat / 2 ^ 8 % 2 ^ 2 ∧ (hdrN h).toNat = h.toNat / 2 ^ 8 % 2 ^ 16 ∧
    (hdrAmin h).toNat = h.toNat / 2 ^ 8 % 2 ^ 8 ∧ (hdrAmax h).toNat = h.toNat / 2 ^ 16 % 2 ^ 8

/-- 30_encoding R78 (and R75): an illegal header faults ILLEGAL_CMD when it arrives; no argument word is taken, no register
is written and no line event occurs. Whether the header itself is taken off the port is not said (log 9), and not stated. -/
def Obligations.IllegalHeaderFaultsOnArrival : Prop :=
  ((List.range 256).filter (fun n => (formatAt n).isNone)).length = 240 ∧
  ∀ (s : State) (h : Word) (ws : List Word),
    s.phase = .idle → s.port = h :: ws → headerIllegal h.toNat →
    ∃ t, step s = .next t ∧ (t.port = ws ∨ t.port = h :: ws) ∧
      t = { s with port := t.port, fault := faultRecord (h.setWidth 8) .illegalCmd, phase := .halted }

/-- 20_memory R47: a command starts only on a complete packet. That the IDLE block then makes a step which leaves the whole
state, its port included, as it was is the model's choice (log 8). -/
def Obligations.IncompletePacketWaits : Prop :=
  ∀ (s : State) (h : Word) (ws : List Word) (op : Op),
    s.phase = .idle → s.port = h :: ws → decodeHeader h = .ok op → ws.length + 1 < op.format.words → step s = .next s

/-- 30_encoding R80: packets written out from the spec's table decode to their commands. -/
def Obligations.TableWordsDecode : Prop :=
  decode [0x00000101] = .ok (.init 1, []) ∧
  decode [0x00000010] = .ok (.isReady, []) ∧
  decode [0x00000A12] = .ok (.readRawAvg 10, []) ∧
  decode [0x00000020, 0x000186A0] = .ok (.filterUpdate 100000, []) ∧
  decode [0x00802022, 0x000005DC, 0x00003A98, 0x0000000A] = .ok (.setFilterParams 1500 15000 32 128 10, []) ∧
  decode [0x00000033, 0x00001FA4] = .ok (.toUnits 8100, [])

/-! ### The step, faults, reset -/

/-- A step of an IDLE block whose port begins with a packet runs that packet's command with the packet taken; a step
inside a command makes the command's next position (10_state R38, 20_memory R44). That a step of a HALTED block drops one
word of the port is the model's choice (log 8): it is how the block ignores the packets behind the one that faulted. -/
def Obligations.StepRunsTheDecodedCommand : Prop :=
  ∀ s : State,
    (∀ (i : Instr) (rest : List Word), s.phase = .idle → s.port = encode i ++ rest → i.wf = true →
      step s = exec i { s with port := rest }) ∧
    (∀ (c : Instr) (p : Pos), s.phase = .run c p → step s = advance c p s) ∧
    (s.phase = .halted → step s = .next { s with port := s.port.tail })

/-- 60_exceptions R123: fault entry writes FAULT and halts; no other register changes and no line event follows. FCAUSE is the
cause's number in the table of R121. -/
def Obligations.FaultEntryWritesOnlyFaultAndPhase : Prop :=
  ∀ (opc : Byte) (c : Cause) (s : State),
    let t := raiseFault opc c s
    t = { s with fault := t.fault, phase := .halted } ∧
    t.fopc = opc ∧ t.freserved = 0 ∧ t.fv = true ∧ t.status.code = 2 ∧
    (c = .illegalCmd → t.fcause = 1) ∧ (c = .linkDown → t.fcause = 2) ∧ (c = .poweredDown → t.fcause = 3) ∧
    (c = .divZero → t.fcause = 4) ∧ (c = .badFilterParams → t.fcause = 5) ∧ (c = .unitsRange → t.fcause = 6)

/-- 60_exceptions R124: every fault leaves the faulting command's registers and the trace as they were, but for UNITS_RANGE
after the transaction of READ_RAW_UNITS and READ_FILTERED_UNITS, where what the transaction and the filter wrote stands. -/
def Obligations.FaultsArePrecise : Prop :=
  (∀ (i : Instr) (s t : State), exec i s = .next t → t.phase = .halted →
    ∃ c, t = { s with fault := faultRecord i.op.opcode c, phase := .halted }) ∧
  (∀ (c : Instr) (p : Pos) (s t : State), inTransaction c s → advance c p s = .next t → t.phase = .halted →
    p = .fix ∧
    ((c = .readRawUnits ∧ t = raiseFault 0x34 .unitsRange { s with armed := some (pTrail s.sel) }) ∨
     (c = .readFilteredUnits ∧
      (let u := (filterUpdateP (u32 (rawCode s.shreg)) s).2
       t = raiseFault 0x35 .unitsRange
         { s with armed := some (pTrail s.sel), ema := u.ema, stable := u.stable, initF := true }))))

/-- 60_exceptions R125: a HALTED block executes no command and makes no line event; it ignores every word the host writes, the
host can still read its registers, and no move but the platform's reset leaves HALTED. What becomes of the words that stood
at the port when it halted is the model's choice (log 8), and is not stated here. -/
def Obligations.HaltedBlockIgnoresEveryWord : Prop :=
  ∀ (k : Nat) (s : State), s.phase = .halted →
    (∃ t, run k s = .next t ∧ t = { s with port := t.port }) ∧
    (∀ ws : List Word, hostWrite ws s = .next s) ∧
    (∀ (r : HostReg) (t : State), run k s = .next t → hostRead r t = hostRead r s) ∧
    ∀ (m : Move) (t : State), (∀ P, m ≠ .reset P) → applyMove m s = .next t → t = { s with port := t.port }

/-- 70_reset R135: the registers after reset with the parameters P, and that `State.reset` is such a state. `EMA`, `STABLE`
and scratch are not stated: the spec gives them no value (logs 4 and 6). -/
def Obligations.ResetLeavesTheStatedValues : Prop :=
  (∀ P : Params,
    let s := State.construct P
    s.sel.code = 0 ∧ s.pwr = .normal ∧ s.link = false ∧ s.clk = none ∧ s.ddir = .input ∧
    s.offset = P.offset ∧ s.scale = P.scale ∧ s.initF = false ∧
    s.dlow = P.dlow ∧ s.dhigh = P.dhigh ∧ s.amin = P.amin ∧ s.amax = P.amax ∧ s.deadband = P.deadband ∧
    hostRead .res s = .error .resNoValue ∧ s.fault = 0 ∧ s.status.code = 0 ∧ s.phase = .idle ∧
    s.armed = none ∧ s.sensorPower = none ∧ s.trace = []) ∧
  ∃ P : Params, P.valid = true ∧ State.reset = State.construct P

/-- 70_reset R134, R135 and 00_scope R14: reset may come in any state, takes the line binding and the tuning defaults, refuses
any that break the invariants, abandons the command in progress and keeps the line events already made. The two lines are
distinct (92_eei_decisions, OPEN parameters; that reset checks it is the model's choice, log 18). That a reset leaves no word at the
port is the model's choice (log 10). `EMA` and `STABLE`, to which the spec gives no value (log 4), are not stated. -/
def Obligations.PlatformResetConstructsOrRefuses : Prop :=
  ∀ (P : Params) (s : State),
    (P.lines.clockOut ≠ P.lines.dataLine → P.dlow.toNat < P.dhigh.toNat → P.amin.toNat ≤ P.amax.toNat →
      ∃ t, platformReset P s = .next t ∧ t.trace = s.trace ∧ t.fault = 0 ∧ t.phase = .idle ∧ t.port = [] ∧
        ∀ r : Reg, r ≠ .ema → r ≠ .stable → r.same t (State.construct P)) ∧
    (P.dhigh.toNat ≤ P.dlow.toNat ∨ P.amax.toNat < P.amin.toNat ∨ P.lines.clockOut = P.lines.dataLine →
      platformReset P s = .refused .badConstruction)

/-! ### The invariant -/

/-- The invariant holds after reset, and at every launch with valid parameters and whole packets. -/
def Obligations.InvariantHoldsAtReset : Prop :=
  Inv State.reset ∧ ∀ (P : Params) (packets : List (List Word)) (ds : List Level), P.valid = true →
    (∀ p ∈ packets, wholePacket p = true) → Inv (launch P packets ds)

/-- Every step keeps the invariant: the tuning (10_state R33), the fault record (R35, R36), the position and what the command
has established there, the clock line and the data line's direction (R29, R30), the sensor's power state (R27), the armed
selection (R41, R42), and the packets at the port whole (20_memory R47, 70_reset R139). -/
def Obligations.EveryStepKeepsTheInvariant : Prop :=
  ∀ s t : State, Inv s → step s = .next t → Inv t

/-- The host's writes and the platform's resets keep the invariant as well. -/
def Obligations.EveryMoveKeepsTheInvariant : Prop :=
  ∀ (m : Move) (s t : State), m ≠ .step → Inv s → applyMove m s = .next t → Inv t

/-- No state with the invariant is stuck, and every reachable state has it: the block can always step, and neither faults nor
refuses as a machine (a command's fault is a next state, 60_exceptions R123; a stall polls on, R120). -/
def Obligations.EveryReachableStateSteps : Prop :=
  (∀ s : State, Reachable s → Inv s) ∧ ∀ s : State, Inv s → ∃ t, step s = .next t

/-- 10_state R33: construction establishes the tuning invariants, and in every state that has them, reachable or not, every
step keeps them; the 8-bit width keeps the coefficients at most 255. -/
def Obligations.TuningInvariantsHoldAtEveryStep : Prop :=
  (∀ P : Params, P.valid = true → tuningOk (State.construct P)) ∧
  (∀ s t : State, tuningOk s → step s = .next t → tuningOk t) ∧
  ∀ s : State, u8 s.amin ≤ 255 ∧ u8 s.amax ≤ 255

/-- 10_state R36, R35: `STATUS` follows `phase`, and it reads HALTED exactly when `FV = 1`. -/
def Obligations.StatusIsHaltedExactlyWhenFaulted : Prop :=
  ∀ s : State, Inv s → (s.status.code = 2 ↔ s.fv = true) ∧ (s.status.code = 0 ↔ s.phase = .idle) ∧
    (s.status.code = 1 ↔ ∃ c p, s.phase = .run c p) ∧ s.status.code ≠ 3 ∧ s.freserved = 0

/-- 10_state R29, R27, R30: the clock line is undriven until INIT drives it; it is high while `PWR = 1`; it is low after
every command that ends with `PWR = 0`; it changes only by a `ClkSet`. `PWR` is the sensor's power state, and the data line is
an input. -/
def Obligations.ClockLineRestsWherePowerModeSays : Prop :=
  ∀ s : State, Inv s →
    (s.link = false → s.clk = none ∧ s.pwr = .normal) ∧
    (s.pwr = .powerDown → s.clk = some .high) ∧
    (s.phase = .idle ∨ s.phase = .halted → s.link = true → s.pwr = .normal → s.clk = some .low) ∧
    (∀ t, step s = .next t → t.clk ≠ s.clk → ∃ l, t.clk = some l ∧ t.trace = s.trace ++ [.clk l]) ∧
    (s.link = true → s.sensorPower = some s.pwr) ∧ s.ddir = .input

/-! ### Whole-machine rules -/

/-- 10_state R25, the "written by" column: a step changes a register only if the command it runs is one of its writers, and
changes FAULT only by halting. -/
def Obligations.RegistersChangeOnlyByTheirWriters : Prop :=
  ∀ s t : State, Inv s → step s = .next t →
    (∀ r : Reg, ¬ r.same s t → ∃ i, currentCommand s = some i ∧ i.op ∈ r.writers) ∧
    (s.fault ≠ t.fault → s.phase ≠ .halted ∧ t.phase = .halted)

/-- A step makes at most one line event, and never takes one back. How much of a command is one step is the model's choice
(log 1); 20_memory R54 says that a line event is the smallest unit of the block's behaviour, and R53 that the trace grows in order. -/
def Obligations.AStepMakesAtMostOneLineEvent : Prop :=
  ∀ s t : State, step s = .next t → t.trace = s.trace ∨ ∃ e, t.trace = s.trace ++ [e]

/-- 70_reset R136: reset makes no line event and leaves the clock line undriven; until INIT has configured the lines, a step
that makes a line event or drives the clock line runs INIT. -/
def Obligations.NoLineEventBeforeInit : Prop :=
  (∀ (P : Params) (s t : State), platformReset P s = .next t → t.trace = s.trace ∧ t.clk = none ∧ t.link = false) ∧
  ∀ s t : State, Inv s → s.link = false → step s = .next t →
    (t.trace ≠ s.trace ∨ t.clk ≠ s.clk ∨ t.link = true) → ∃ sel, currentCommand s = some (.init sel)

/-- 10_state R37, R35, 42_filter R97: `INIT_F`, `LINK` and `FV`, once 1, stay 1 under every move but the platform's reset. -/
def Obligations.FlagsAreClearedOnlyByReset : Prop :=
  ∀ (m : Move) (s t : State), (∀ P, m ≠ .reset P) → applyMove m s = .next t →
    (s.initF = true → t.initF = true) ∧ (s.link = true → t.link = true) ∧ (s.fv = true → t.fv = true)

/-- 20_memory R53, 10_state R41: the trace and the ghosts are recorded and never read back. -/
def Obligations.TraceAndGhostsAreNeverRead : Prop :=
  ∀ s t : State, forgetObserved s = forgetObserved t →
    mapNext forgetObserved (step s) = mapNext forgetObserved (step t)

/-- 10_state R39: no rule reads a scratch register before writing it: two states that differ only in scratch registers not in
use step alike. -/
def Obligations.ScratchIsNeverReadBeforeWritten : Prop :=
  ∀ s t : State, forgetScratch s = forgetScratch t →
    mapNext forgetScratch (step s) = mapNext forgetScratch (step t)

/-- 10_state R32, 42_filter R97: `EMA` and `STABLE` are never read while `INIT_F = 0`. So nothing rests on the value the model
gives them at reset (log 4). -/
def Obligations.UnseededFilterIsNeverRead : Prop :=
  ∀ s t : State, forgetUnseeded s = forgetUnseeded t →
    mapNext forgetUnseeded (step s) = mapNext forgetUnseeded (step t)

/-- 70_reset R138: a faulted run stays faulted, and is never a completed run; a completed run stays completed. That an IDLE block
with an empty port makes steps, and that they leave the whole state unchanged, is the model's choice (log 8). -/
def Obligations.EndedRunsStayEnded : Prop :=
  ∀ (k : Nat) (s : State),
    (completed s → run k s = .next s) ∧
    (faulted s → ¬ completed s ∧ ∃ t, run k s = .next t ∧ faulted t ∧ t.fault = s.fault ∧ t.trace = s.trace)

/-! ### Link and transaction -/

/-- 40_link R86, 60_exceptions R120: however many polls draw 1, the block goes on waiting, BUSY, with one SAMPLE(1) a poll and no
register written; a poll that draws 0 ends the wait. That Shift24's `SHREG <- 0` (R87) comes in the step of that poll is the
model's choice (log 1); so is that a command without a transaction, which no run brings to WAIT, polls there (log 16). -/
def Obligations.WaitReadyPollsWithoutBound : Prop :=
  ∀ (c : Instr) (k : Nat) (s : State), s.phase = .run c .wait → (∀ j, j < k → s.peek j = .high) →
    run k s = .next { s.skip k with trace := s.trace ++ List.replicate k (.sample .high) } ∧
    (s.peek k = .low →
      run (k + 1) s = .next { s.skip (k + 1) with
        trace := s.trace ++ List.replicate k (.sample .high) ++ [.sample .low], shreg := 0, phase := .run c (.data 0 .hi) })

/-- 41_acquisition R90: a whole transaction, from the first poll, with all its line events in order, ends at the command's own
use of the code; it writes SHREG and CLK and no other register. Of a command without a transaction, which no run brings here, it
says only what the model chose (log 16). -/
def Obligations.TransactionRunsToItsCode : Prop :=
  ∀ (c : Instr) (k : Nat) (s : State), readyAfter k s →
    run (transactionSteps k s.sel) (beginTransaction c s) =
      afterTransaction c (sampledCode k s) (goto (.run c .fix) (transact k s))

/-- 41_acquisition R91: the code is the sampled number plus 2^23, in 0 to 2^24 - 1, strictly increasing in it. -/
def Obligations.RawCodeIsOffsetBinary : Prop :=
  (∀ v : BitVec 24, u32 (rawCode v) = v.toInt + 2 ^ 23 ∧ 0 ≤ u32 (rawCode v) ∧ u32 (rawCode v) ≤ 2 ^ 24 - 1 ∧
    s32 (rawCode v) = u32 (rawCode v) ∧ rawCode v = (v ^^^ 0x800000#24).setWidth 32) ∧
  (∀ v w : BitVec 24, v.toInt < w.toInt → u32 (rawCode v) < u32 (rawCode w))

/-- 40_link R87: the first bit sampled lands in bit 23 and the last in bit 0. -/
def Obligations.FirstSampleIsTheTopBit : Prop :=
  ∀ bs : List Level, bs.length = 24 → ∀ i, i < 24 →
    (shiftIn bs).getLsbD (23 - i) = (bs.getD i .low == .high)

/-- 41_acquisition R92, 10_state R41, R42: no step changes the armed selection but the FIX of a transaction, which arms the pulses
of `SEL`, and a clock transition on a sensor not known to be up, which leaves it unknown. So during a transaction of a powered
sensor it is still the one it began with. That FIX is the step that arms is the model's choice (log 12). -/
def Obligations.SelectionTakesEffectOneTransactionLate : Prop :=
  (∀ s t : State, step s = .next t → t.armed ≠ s.armed →
    (∃ c, s.phase = .run c .fix ∧ t.armed = some (pTrail s.sel)) ∨
    (t.armed = none ∧ s.sensorPower ≠ some .normal ∧ t.clk ≠ s.clk)) ∧
  ∀ (c : Instr) (k : Nat) (s : State), readyAfter k s → s.sensorPower = some .normal →
    (∀ (j : Nat) (t : State), j < transactionSteps k s.sel → run j (beginTransaction c s) = .next t → t.armed = s.armed) ∧
    (∀ t : State, run (transactionSteps k s.sel) (beginTransaction c s) = .next t → t.armed = some (pTrail s.sel))

/-- 00_scope R13, 40_link R88: no trailing pulse for GainA128, one for GainB32 and one for GainA64, so 24, 25 and 25 pulses in a
transaction. 70_reset R151, R140: the least time of one transaction's events: 2 x (24 + P_TRAIL(SEL)) clock edges, at least 48 us for
GainA128 and 50 us for the other modes; and of the power-down hold, at least 60 us. -/
def Obligations.TransactionTakesAtLeastItsEdges : Prop :=
  pTrail .gainA128 = 0 ∧ pTrail .gainB32 = 1 ∧ pTrail .gainA64 = 1 ∧
  60000 ≤ traceMinTime [.clk .high, .holdPd] ∧
  ∀ (k : Nat) (bs : List Level) (m : InputSelect), bs.length = 24 →
    let es := transactionTrace k bs (pTrail m)
    (m = .gainA128 → es.count (.clk .high) = 24 ∧ es.count (.clk .low) = 24) ∧
    (m = .gainB32 ∨ m = .gainA64 → es.count (.clk .high) = 25 ∧ es.count (.clk .low) = 25) ∧
    traceMinTime es = 2 * (24 + pTrail m) * Config.tSettle ∧ 48000 ≤ traceMinTime es ∧
    (m ≠ .gainA128 → 50000 ≤ traceMinTime es) ∧ es.length = k + 1 + 72 + 2 * pTrail m

/-- 40_link R89. -/
def Obligations.IsReadySamplesOnce : Prop :=
  encode .isReady = [0x00000010] ∧
  ∀ s : State, lineFaults .isReady s ∧
    (linkUp s →
      (s.peek 0 = .low → exec .isReady s =
        .next { s.skip 1 with trace := s.trace ++ [.sample .low], res := some 1, phase := .idle }) ∧
      (s.peek 0 = .high → exec .isReady s =
        .next { s.skip 1 with trace := s.trace ++ [.sample .high], res := some 0, phase := .idle }))

/-! ### Acquisition -/

/-- 41_acquisition R93. -/
def Obligations.ReadRawReturnsTheCode : Prop :=
  encode .readRaw = [0x00000011] ∧
  ∀ s : State, lineFaults .readRaw s ∧
    (linkUp s → ∃ u, exec .readRaw s = .next u ∧ u = { s with phase := .run .readRaw .wait } ∧
      ∀ k, readyAfter k s → run (transactionSteps k s.sel) u =
        .next { transact k s with res := some (sampledCode k s), phase := .idle } ∧ (sampledCode k s).toNat ≤ 0x00FFFFFF)

/-- 41_acquisition R94: the exact sum of n codes, divided by n. -/
def Obligations.ReadRawAvgReturnsTheMean : Prop :=
  ∀ n : BitVec 16, encode (.readRawAvg n) = [BitVec.ofNat 32 (n.toNat * 2 ^ 8 + 0x12)] ∧
  ∀ s : State, lineFaults (.readRawAvg n) s ∧
    (linkUp s → n = 0 → exec (.readRawAvg n) s = .next (raiseFault 0x12 .divZero s)) ∧
    (linkUp s → n ≠ 0 → ∃ u, exec (.readRawAvg n) s = .next u ∧
      u = { s with acc := 0, cnt := n, phase := .run (.readRawAvg n) .wait } ∧
      ∀ ks : List Nat, ks.length = n.toNat → readyAll ks s →
        run (stepsAll s.sel ks) u =
          .next { transactAll ks s with
            acc := codeSum ks s, cnt := 0, res := some (BitVec.ofNat 32 (codeSum ks s / n.toNat)), phase := .idle } ∧
        codeSum ks s ≤ n.toNat * (2 ^ 24 - 1) ∧ codeSum ks s / n.toNat < 2 ^ 24)

/-- 41_acquisition R95, 30_encoding R75: the mode is stored first, one transaction runs under it, its code is discarded. -/
def Obligations.SetInputSelectStoresAndFlushes : Prop :=
  ∀ sel : BitVec 2, encode (.setInputSelect sel) = [BitVec.ofNat 32 (sel.toNat * 2 ^ 8 + 0x13)] ∧
  ∀ s : State,
    (sel = 3 → exec (.setInputSelect sel) s = .next (raiseFault 0x13 .illegalCmd s)) ∧
    (sel ≠ 3 → lineFaults (.setInputSelect sel) s) ∧
    (∀ m : InputSelect, m.code = sel → linkUp s → ∃ u, exec (.setInputSelect sel) s = .next u ∧
      u = { s with sel := m, phase := .run (.setInputSelect sel) .wait } ∧
      ∀ k, readyAfter k s → run (transactionSteps k m) u = .next { transact k { s with sel := m } with phase := .idle })

/-! ### Filter -/

/-- 42_filter R98: the coefficient's three branches, its range, and that it does not decrease between the thresholds. -/
def Obligations.AlphaIsPiecewiseLinear : Prop :=
  ∀ s : State, tuningOk s →
    (∀ d : Int, d ≤ u32 s.dlow → alpha d s = u8 s.amin) ∧
    (∀ d : Int, u32 s.dhigh ≤ d → alpha d s = u8 s.amax) ∧
    (∀ d : Int, u32 s.dlow < d → d < u32 s.dhigh →
      alpha d s = u8 s.amin + (d - u32 s.dlow) * (u8 s.amax - u8 s.amin) / (u32 s.dhigh - u32 s.dlow) ∧
      (u8 s.amin < u8 s.amax → alpha d s < u8 s.amax) ∧
      (d - u32 s.dlow) * (u8 s.amax - u8 s.amin) < 2 ^ 40) ∧
    (∀ d : Int, u8 s.amin ≤ alpha d s ∧ alpha d s ≤ u8 s.amax) ∧
    (∀ d e : Int, d ≤ e → alpha d s ≤ alpha e s)

/-- 42_filter R96, R97, R101: the update procedure: the seed, the step, the strict dead-band on the new EMA. It makes no line
event, and writes EMA, STABLE and INIT_F only. -/
def Obligations.FilterUpdateFollowsItsSteps : Prop :=
  ∀ (raw : Word) (s : State),
    (s.initF = false → filterUpdateP (s32 raw) s = (s32 raw, { s with ema := raw, stable := raw, initF := true })) ∧
    (s.initF = true →
      ∃ e : Word, e.toInt = s.ema.toInt + (raw.toInt - s.ema.toInt) * alpha |raw.toInt - s.ema.toInt| s / 256 ∧
        (s.deadband.toNat < |e.toInt - s.stable.toInt| →
          filterUpdateP (s32 raw) s = (e.toInt, { s with ema := e, stable := e })) ∧
        (|e.toInt - s.stable.toInt| ≤ s.deadband.toNat →
          filterUpdateP (s32 raw) s = (s.stable.toInt, { s with ema := e })))

/-- 42_filter R100: the new EMA lies between the old one and the input, so its write never wraps; STABLE takes only
values EMA or the input held. In every state. -/
def Obligations.EmaStaysBetweenOldAndInput : Prop :=
  ∀ (raw : Word) (s : State),
    let d := s32 raw - s32 s.ema
    (0 ≤ d → 0 ≤ emaStep d s ∧ emaStep d s ≤ d) ∧ (d < 0 → d ≤ emaStep d s ∧ emaStep d s ≤ 0) ∧
    s32 (w32 (s32 s.ema + emaStep d s)) = s32 s.ema + emaStep d s ∧
    (let u := (filterUpdateP (s32 raw) s).2; u.stable = s.stable ∨ u.stable = u.ema)

/-- 42_filter R102, one call on a constant input r: from above EMA moves at least one toward r and not past it; from below it
moves only while the product reaches 256, and never reaches r; with coefficient 0 it does not move. -/
def Obligations.ConstantInputMovesEmaTowardIt : Prop :=
  ∀ (r : Word) (s : State), s.initF = true →
    let a := alpha |s32 r - s32 s.ema| s
    let e := s32 (filterUpdateP (s32 r) s).2.ema
    (s32 r < s32 s.ema → 1 ≤ a → s32 r ≤ e ∧ e < s32 s.ema) ∧
    (s32 s.ema < s32 r → 256 ≤ (s32 r - s32 s.ema) * a → s32 s.ema < e ∧ e < s32 r) ∧
    (s32 s.ema < s32 r → (s32 r - s32 s.ema) * a < 256 → e = s32 s.ema) ∧
    (a = 0 → e = s32 s.ema) ∧ (s.ema = r → e = s32 s.ema)

/-- 42_filter R102 with a positive AMIN: fed a constant input from above, EMA reaches it exactly after some number of calls, and
then stays. -/
def Obligations.EmaReachesInputFromAbove : Prop :=
  ∀ (r : Word) (s : State), s.initF = true → tuningOk s → 1 ≤ u8 s.amin → s32 r ≤ s32 s.ema →
    ∃ n : Nat, ∀ m : Nat, n ≤ m → ((fun t => (filterUpdateP (s32 r) t).2)^[m] s).ema = r

/-- 42_filter R103. -/
def Obligations.FilterUpdateReturnsItsValue : Prop :=
  ∀ raw : Word, encode (.filterUpdate raw) = [0x00000020, raw] ∧
  ∀ s : State,
    let u := filterUpdateP (s32 raw) s
    exec (.filterUpdate raw) s =
      .next { s with ema := u.2.ema, stable := u.2.stable, initF := true, res := some (w32 u.1), phase := .idle }

/-- 42_filter R104. -/
def Obligations.ReadFilteredUpdatesWithAFreshCode : Prop :=
  encode .readFiltered = [0x00000021] ∧
  ∀ s : State, lineFaults .readFiltered s ∧
    (linkUp s → ∃ t, exec .readFiltered s = .next t ∧ t = { s with phase := .run .readFiltered .wait } ∧
      ∀ k, readyAfter k s →
        let u := filterUpdateP (u32 (sampledCode k s)) s
        run (transactionSteps k s.sel) t =
          .next { transact k s with
            ema := u.2.ema, stable := u.2.stable, initF := true, res := some (w32 u.1), phase := .idle })

/-- 42_filter R105: all five parameters together, or a fault and none. -/
def Obligations.SetFilterParamsWritesAllOrFaults : Prop :=
  ∀ (dlow dhigh : Word) (amin amax : Byte) (db : Word),
  encode (.setFilterParams dlow dhigh amin amax db) =
    [BitVec.ofNat 32 (amax.toNat * 2 ^ 16 + amin.toNat * 2 ^ 8 + 0x22), dlow, dhigh, db] ∧
  ∀ s : State,
    (dhigh.toNat ≤ dlow.toNat ∨ amax.toNat < amin.toNat →
      exec (.setFilterParams dlow dhigh amin amax db) s = .next (raiseFault 0x22 .badFilterParams s)) ∧
    (dlow.toNat < dhigh.toNat → amin.toNat ≤ amax.toNat →
      exec (.setFilterParams dlow dhigh amin amax db) s =
        .next { s with dlow := dlow, dhigh := dhigh, amin := amin, amax := amax, deadband := db, phase := .idle })

/-! ### Calibration -/

/-- 43_calibration R107: the filtered reading becomes the offset and the result. -/
def Obligations.TareStoresTheFilteredReading : Prop :=
  encode .tare = [0x00000030] ∧
  ∀ s : State, lineFaults .tare s ∧
    (linkUp s → ∃ t, exec .tare s = .next t ∧ t = { s with phase := .run .tare .wait } ∧
      ∀ k, readyAfter k s →
        let u := filterUpdateP (u32 (sampledCode k s)) s
        run (transactionSteps k s.sel) t =
          .next { transact k s with
            ema := u.2.ema, stable := u.2.stable, initF := true, offset := u.2.stable, res := some u.2.stable,
            phase := .idle })

/-- 43_calibration R108: SCALE and nothing else; 0 is accepted. -/
def Obligations.SetScaleWritesOnlyScale : Prop :=
  ∀ value : Word, encode (.setScale value) = [0x00000031, value] ∧
    ∀ s : State, exec (.setScale value) s = .next { s with scale := value, phase := .idle }

/-- 43_calibration R109: OFFSET and nothing else. -/
def Obligations.SetOffsetWritesOnlyOffset : Prop :=
  ∀ value : Word, encode (.setOffset value) = [0x00000032, value] ∧
    ∀ s : State, exec (.setOffset value) s = .next { s with offset := value, phase := .idle }

/-- 43_calibration R106, R110: the exact difference, divided toward zero; the two faults. -/
def Obligations.ToUnitsDividesOrFaults : Prop :=
  ∀ count : Word, encode (.toUnits count) = [0x00000033, count] ∧
  ∀ s : State,
    let q := Int.tdiv (count.toInt - s.offset.toInt) s.scale.toInt
    (s.scale = 0 → exec (.toUnits count) s = .next (raiseFault 0x33 .divZero s)) ∧
    (s.scale ≠ 0 → (q < -32768 ∨ 32767 < q) → exec (.toUnits count) s = .next (raiseFault 0x33 .unitsRange s)) ∧
    (s.scale ≠ 0 → -32768 ≤ q → q ≤ 32767 → ∃ v : Word, v.toInt = q ∧
      exec (.toUnits count) s = .next { s with res := some v, phase := .idle })

/-- 43_calibration R111: SCALE is checked first, then one transaction, then the conversion; UNITS_RANGE comes after it. -/
def Obligations.ReadRawUnitsConvertsAFreshCode : Prop :=
  encode .readRawUnits = [0x00000034] ∧
  ∀ s : State, lineFaults .readRawUnits s ∧
    (linkUp s → s.scale = 0 → exec .readRawUnits s = .next (raiseFault 0x34 .divZero s)) ∧
    (linkUp s → s.scale ≠ 0 → ∃ t, exec .readRawUnits s = .next t ∧ t = { s with phase := .run .readRawUnits .wait } ∧
      ∀ k, readyAfter k s →
        let q := Int.tdiv (u32 (sampledCode k s) - s.offset.toInt) s.scale.toInt
        ((q < -32768 ∨ 32767 < q) →
          run (transactionSteps k s.sel) t = .next (raiseFault 0x34 .unitsRange (transact k s))) ∧
        (-32768 ≤ q → q ≤ 32767 → ∃ v : Word, v.toInt = q ∧
          run (transactionSteps k s.sel) t = .next { transact k s with res := some v, phase := .idle }))

/-- 43_calibration R112: as R111, with the filter between; the filter's writes stand under UNITS_RANGE. -/
def Obligations.ReadFilteredUnitsConvertsTheFilteredReading : Prop :=
  encode .readFilteredUnits = [0x00000035] ∧
  ∀ s : State, lineFaults .readFilteredUnits s ∧
    (linkUp s → s.scale = 0 → exec .readFilteredUnits s = .next (raiseFault 0x35 .divZero s)) ∧
    (linkUp s → s.scale ≠ 0 →
      ∃ t, exec .readFilteredUnits s = .next t ∧ t = { s with phase := .run .readFilteredUnits .wait } ∧
      ∀ k, readyAfter k s →
        let u := filterUpdateP (u32 (sampledCode k s)) s
        let w := { transact k s with ema := u.2.ema, stable := u.2.stable, initF := true }
        let q := Int.tdiv (u.1 - s.offset.toInt) s.scale.toInt
        ((q < -32768 ∨ 32767 < q) → run (transactionSteps k s.sel) t = .next (raiseFault 0x35 .unitsRange w)) ∧
        (-32768 ≤ q → q ≤ 32767 → ∃ v : Word, v.toInt = q ∧
          run (transactionSteps k s.sel) t = .next { w with res := some v, phase := .idle }))

/-- 43_calibration R114: with the scale computed from X = raw - OFFSET and a known weight W, the conversion gives
W + tdiv(r, s), r = X - s W: W itself when W divides X, off by at most (|W| - 1) / |s| with the sign of W, and by at most one unit
exactly when |r| < 2 |s|. With |X| < |W| the scale is 0. (R114's "exactly when W divides X" is stated from right to left only:
its own table, 95_test_vectors 2.5, has X = 105, W = 10 without an error.) -/
def Obligations.CalibrationRoundTripError : Prop :=
  (∀ X W : Int, |X| < |W| → Int.tdiv X W = 0) ∧
  ∀ (raw W : Int) (s : State), W ≠ 0 → s.scale ≠ 0 → s32 s.scale = Int.tdiv (raw - s32 s.offset) W →
    let r := raw - s32 s.offset - s32 s.scale * W
    let e := Int.tdiv r (s32 s.scale)
    Int.tdiv (raw - s32 s.offset) (s32 s.scale) = W + e ∧ 0 ≤ e * W ∧ |e| ≤ (|W| - 1) / |s32 s.scale| ∧
    (W ∣ raw - s32 s.offset → e = 0) ∧ (|e| ≤ 1 ↔ |r| < 2 * |s32 s.scale|) ∧
    (-32768 ≤ W + e → W + e ≤ 32767 → toUnitsP raw s = .ok (W + e))

/-! ### Control -/

/-- 44_control R115: INIT configures the lines, wakes the sensor, applies the mode and flushes one transaction, in any state;
a select of 3 is illegal (30_encoding R75). -/
def Obligations.InitConfiguresAndFlushes : Prop :=
  ∀ sel : BitVec 2, encode (.init sel) = [BitVec.ofNat 32 (sel.toNat * 2 ^ 8 + 0x01)] ∧
  ∀ s : State,
    (sel = 3 → exec (.init sel) s = .next (raiseFault 0x01 .illegalCmd s)) ∧
    (∀ m : InputSelect, m.code = sel → ∃ u, exec (.init sel) s = .next u ∧
      u = { s with ddir := .input, trace := s.trace ++ [.dirIn], phase := .run (.init sel) .lines } ∧
      ∀ k, readyAfter k s → run (1 + transactionSteps k m) u =
        .next { transact k { s with
          ddir := .input, link := true, pwr := .normal, sel := m, trace := s.trace ++ [.dirIn, .clk .low] } with
          phase := .idle })

/-- 44_control R116, R118: the clock goes high and is held; while already down nothing happens. -/
def Obligations.PowerDownHoldsTheClockHigh : Prop :=
  encode .powerDown = [0x00000002] ∧
  ∀ s : State,
    (s.link = false → exec .powerDown s = .next (raiseFault 0x02 .linkDown s)) ∧
    (s.link = true → s.pwr = .powerDown → exec .powerDown s = .next { s with phase := .idle }) ∧
    (s.link = true → s.pwr = .normal → ∃ u, exec .powerDown s = .next u ∧
      u = { s with clk := some .high, trace := s.trace ++ [.clk .high], armed := wakeArmed .high s,
                   sensorPower := wakePower .high s, phase := .run .powerDown .hold } ∧
      run 1 u = .next { u with trace := s.trace ++ [.clk .high, .holdPd], pwr := .powerDown,
                               sensorPower := some .powerDown, phase := .idle })

/-- 44_control R117: one clock transition; while already up nothing happens. -/
def Obligations.PowerUpMakesOneTransition : Prop :=
  encode .powerUp = [0x00000003] ∧
  ∀ s : State,
    (s.link = false → exec .powerUp s = .next (raiseFault 0x03 .linkDown s)) ∧
    (s.link = true → s.pwr = .normal → exec .powerUp s = .next { s with phase := .idle }) ∧
    (s.link = true → s.pwr = .powerDown → exec .powerUp s =
      .next { s with clk := some .low, trace := s.trace ++ [.clk .low], armed := wakeArmed .low s,
                     sensorPower := wakePower .low s, pwr := .normal, phase := .idle })

/-- 10_state R41, 20_memory R64, 70_reset R148: after POWER_DOWN and POWER_UP the sensor is up and its selection unknown. -/
def Obligations.WakeForgetsTheSelection : Prop :=
  ∀ s t : State, Inv s → s.phase = .idle → s.pwr = .powerDown → exec .powerUp s = .next t →
    t.sensorPower = some .normal ∧ t.armed = none ∧ t.sel = s.sel

/-! ### The host port -/

/-- 10_state R34, R35, R36, 70_reset R139: what the host reads, and that RES before any result faults. That FAULT and
STATUS come zero-extended to a word is the model's choice (log 11). -/
def Obligations.HostReadsThreeRegisters : Prop :=
  ∀ s : State,
    (s.res = none → hostRead .res s = .error .resNoValue) ∧
    (∀ v, s.res = some v → hostRead .res s = .ok v) ∧
    hostRead .fault s = .ok (s.fault.setWidth 32) ∧ hostRead .status s = .ok (s.status.code.setWidth 32)

/-- 70_reset R139, 93 I25, I26: the host writes whole packets while IDLE and has no move that writes anything else; what it
writes while HALTED is ignored; it has no such move while BUSY. A whole packet is the header and as many words as its opcode
needs (30_encoding R68), so every command's packet is one. That a write appends its words to a list at the port, and that the
host's moves are functions on the state, is the model's choice (logs 8 and 11). -/
def Obligations.HostWritesOnlyWhileNotBusy : Prop :=
  (∀ i : Instr, wholePacket (encode i) = true) ∧
  (∀ (h : Word) (args : List Word) (op : Op), decodeHeader h = .ok op →
    (wholePacket (h :: args) = true ↔ args.length + 1 = op.format.words)) ∧
  ∀ (ws : List Word) (s : State),
    (s.phase = .idle → wholePacket ws = true → hostWrite ws s = .next { s with port := s.port ++ ws }) ∧
    (s.phase = .idle → wholePacket ws = false → hostWrite ws s = .refused .partialPacket) ∧
    (s.phase = .halted → hostWrite ws s = .next s) ∧
    (∀ c p, s.phase = .run c p → hostWrite ws s = .refused .portBusy)

/-- 30_encoding, with 20_memory R46: whatever the order of a word's four bytes on a byte-wide bus, the bytes that put byte k of
word j of a command's packet at the place `lane k` of the j-th group of four decode to that command, and there are such bytes. -/
def Obligations.EveryByteOrderCarriesEveryPacket : Prop :=
  ∀ (lane : Fin 4 → Fin 4), Function.Injective lane → ∀ i : Instr, i.wf = true →
    let carries (bs : List Byte) : Prop := bs.length = 4 * i.op.format.words ∧
      ∀ j, j < i.op.format.words → ∀ k : Fin 4,
        bs.getD (4 * j + (lane k).val) 0 = ((encode i).getD j 0).extractLsb' (8 * k.val) 8
    (∀ bs, carries bs → decodeBytes lane bs = .ok (i, [])) ∧ ∃ bs, carries bs

/-! ### Whole runs -/

/-- 70_reset R138, R146: from every state with the invariant (so from every launch), whatever the environment draws, the run ends in
exactly one of the three ways, Completed, Faulted or Hung; it is not Hung under `P_READY_EVENTUALLY`; and a completed run has
one value of `RES` for each packet. -/
def Obligations.EveryRunCompletesFaultsOrHangs : Prop :=
  ∀ (env : Nat → Level) (s : State), Inv s →
    (completesUnder env s ∨ faultsUnder env s ∨ hungUnder env s) ∧
    ¬ (completesUnder env s ∧ faultsUnder env s) ∧ ¬ (completesUnder env s ∧ hungUnder env s) ∧
    ¬ (faultsUnder env s ∧ hungUnder env s) ∧ (readyEventually env s → ¬ hungUnder env s) ∧
    ∀ (packets : List (List Word)) (k : Nat) (t : State), s.phase = .idle → (∀ p ∈ packets, wholePacket p = true) →
      s.port = packets.flatten → runUnder env k s = .next t → completed t → (resultsUnder env k s).length = packets.length
end

