-- ==== Sys2Proof/Laws/Decode.lean ====
section
/-! SUPPORT. Headers and their fields as numbers: what the encoder packs and what the decoder reads. -/

namespace Sys2Proof

/-- Concatenation as a number. -/
theorem toNat_append_mul {n m : Nat} (x : BitVec n) (y : BitVec m) : (x ++ y).toNat = x.toNat * 2 ^ m + y.toNat := by
  rw [BitVec.toNat_append, ← Nat.shiftLeft_add_eq_or_of_lt y.isLt, Nat.shiftLeft_eq]

theorem plainHeader_toNat (op : Op) : (plainHeader op).toNat = op.opcode.toNat :=
  (toNat_append_mul 0#24 op.opcode).trans (by simp)

theorem selectHeader_toNat (op : Op) (sel : BitVec 2) :
    (selectHeader op sel).toNat = sel.toNat * 2 ^ 8 + op.opcode.toNat :=
  (toNat_append_mul (0#22 ++ sel) op.opcode).trans (by rw [toNat_append_mul 0#22 sel]; simp)

theorem countHeader_toNat (op : Op) (n : BitVec 16) : (countHeader op n).toNat = n.toNat * 2 ^ 8 + op.opcode.toNat :=
  (toNat_append_mul (0#8 ++ n) op.opcode).trans (by rw [toNat_append_mul 0#8 n]; simp)

theorem filterHeader_toNat (op : Op) (amin amax : Byte) :
    (filterHeader op amin amax).toNat = (amax.toNat * 2 ^ 8 + amin.toNat) * 2 ^ 8 + op.opcode.toNat :=
  (toNat_append_mul (0#8 ++ amax ++ amin) op.opcode).trans
    (by rw [toNat_append_mul (0#8 ++ amax) amin, toNat_append_mul 0#8 amax]; simp)

/-- A field of a header as a number. -/
theorem extract_toNat (h : Word) (lo w : Nat) : (h.extractLsb' lo w).toNat = h.toNat / 2 ^ lo % 2 ^ w := by
  simp [BitVec.extractLsb', Nat.shiftRight_eq_div_pow]

theorem hdrOpc_toNat (h : Word) : (hdrOpc h).toNat = h.toNat % 2 ^ 8 := by simp [hdrOpc]

theorem opOf_opcode (op : Op) : opOf op.opcode = some op := by cases op <;> rfl

/-- The opcode map is injective: an opcode byte found in it is the row's own. -/
theorem opOf_eq_some {opc : Byte} {op : Op} (h : opOf opc = some op) : op.opcode = opc := by
  simpa using List.find?_some h

/-! ### The fields of an encoded header -/

theorem hdrOpc_plain (op : Op) : hdrOpc (plainHeader op) = op.opcode := by
  apply BitVec.eq_of_toNat_eq
  have := op.opcode.isLt
  rw [hdrOpc_toNat, plainHeader_toNat]
  omega

theorem hdrOpc_select (op : Op) (sel : BitVec 2) : hdrOpc (selectHeader op sel) = op.opcode := by
  apply BitVec.eq_of_toNat_eq
  have := op.opcode.isLt
  rw [hdrOpc_toNat, selectHeader_toNat]
  omega

theorem hdrOpc_count (op : Op) (n : BitVec 16) : hdrOpc (countHeader op n) = op.opcode := by
  apply BitVec.eq_of_toNat_eq
  have := op.opcode.isLt
  rw [hdrOpc_toNat, countHeader_toNat]
  omega

theorem hdrOpc_filter (op : Op) (amin amax : Byte) : hdrOpc (filterHeader op amin amax) = op.opcode := by
  apply BitVec.eq_of_toNat_eq
  have := op.opcode.isLt
  rw [hdrOpc_toNat, filterHeader_toNat]
  omega

theorem hdrSel_select (op : Op) (sel : BitVec 2) : hdrSel (selectHeader op sel) = sel := by
  apply BitVec.eq_of_toNat_eq
  have := op.opcode.isLt
  have := sel.isLt
  rw [hdrSel, extract_toNat, selectHeader_toNat]
  omega

theorem hdrN_count (op : Op) (n : BitVec 16) : hdrN (countHeader op n) = n := by
  apply BitVec.eq_of_toNat_eq
  have := op.opcode.isLt
  have := n.isLt
  rw [hdrN, extract_toNat, countHeader_toNat]
  omega

theorem hdrAmin_filter (op : Op) (amin amax : Byte) : hdrAmin (filterHeader op amin amax) = amin := by
  apply BitVec.eq_of_toNat_eq
  have := op.opcode.isLt
  have := amin.isLt
  rw [hdrAmin, extract_toNat, filterHeader_toNat]
  omega

theorem hdrAmax_filter (op : Op) (amin amax : Byte) : hdrAmax (filterHeader op amin amax) = amax := by
  apply BitVec.eq_of_toNat_eq
  have := op.opcode.isLt
  have := amin.isLt
  have := amax.isLt
  rw [hdrAmax, extract_toNat, filterHeader_toNat]
  omega

/-! ### The header decoder -/

theorem clear_iff {n : Nat} (x : BitVec n) : (x == 0) = true ↔ x.toNat = 0 := by
  rw [beq_iff_eq, ← BitVec.toNat_inj]
  simp

/-- The reserved bits of each format, on the header as a number. -/
theorem reservedClear_iff (f : Format) (h : Word) :
    f.reservedClear h = true ↔
      match f with
      | .N => h.toNat / 2 ^ 8 = 0
      | .S => h.toNat / 2 ^ 10 = 0
      | .C => h.toNat / 2 ^ 24 = 0
      | .W => h.toNat / 2 ^ 8 = 0
      | .F => h.toNat / 2 ^ 24 = 0 := by
  have := h.isLt
  cases f <;> simp only [Format.reservedClear, clear_iff, extract_toNat] <;> omega

/-- The header decoder accepts a row exactly when the three checks pass. -/
theorem decodeHeader_eq_ok {h : Word} {op : Op} :
    decodeHeader h = .ok op ↔
      h.toNat % 2 ^ 8 = op.opcode.toNat ∧ op.format.reservedClear h = true ∧ (op.format = .S → hdrSel h ≠ 3) := by
  rw [← hdrOpc_toNat, BitVec.toNat_inj]
  unfold decodeHeader
  constructor
  · intro e
    split at e
    · cases e
    · rename_i ho
      split at e
      · cases e
      split at e
      · cases e
      · rename_i h1 h2
        cases e
        exact ⟨(opOf_eq_some ho).symm, by simpa only [Bool.not_eq_false] using h1, fun hf hs => h2 ⟨hf, hs⟩⟩
  · rintro ⟨h1, h2, h3⟩
    have : ¬ (op.format = .S ∧ hdrSel h = 3) := fun ⟨a, b⟩ => h3 a b
    rw [h1, opOf_opcode]
    simp only [h2, Bool.true_eq_false, if_false, if_neg this]

theorem decodeHeader_plain (op : Op) (h : op.format = .N ∨ op.format = .W) : decodeHeader (plainHeader op) = .ok op := by
  have := op.opcode.isLt
  rw [decodeHeader_eq_ok, reservedClear_iff, plainHeader_toNat]
  rcases h with h | h <;> simp only [h, reduceCtorEq, false_imp_iff, and_true] <;> omega

theorem decodeHeader_select (op : Op) (sel : BitVec 2) (h : op.format = .S) (hs : sel ≠ 3) :
    decodeHeader (selectHeader op sel) = .ok op := by
  have := op.opcode.isLt
  have := sel.isLt
  rw [decodeHeader_eq_ok, reservedClear_iff, selectHeader_toNat, hdrSel_select]
  refine ⟨by omega, ?_, fun _ => hs⟩
  simp only [h]
  omega

theorem decodeHeader_count (op : Op) (n : BitVec 16) (h : op.format = .C) : decodeHeader (countHeader op n) = .ok op := by
  have := op.opcode.isLt
  have := n.isLt
  rw [decodeHeader_eq_ok, reservedClear_iff, countHeader_toNat]
  simp only [h, reduceCtorEq, false_imp_iff, and_true]
  omega

theorem decodeHeader_filter (op : Op) (amin amax : Byte) (h : op.format = .F) :
    decodeHeader (filterHeader op amin amax) = .ok op := by
  have := op.opcode.isLt
  have := amin.isLt
  have := amax.isLt
  rw [decodeHeader_eq_ok, reservedClear_iff, filterHeader_toNat]
  simp only [h, reduceCtorEq, false_imp_iff, and_true]
  omega

/-- A header the decoder accepts has a row of the opcode map. -/
theorem opOf_of_decodeHeader {h : Word} {op : Op} (e : decodeHeader h = .ok op) : opOf (hdrOpc h) = some op := by
  rw [decodeHeader_eq_ok, ← hdrOpc_toNat, BitVec.toNat_inj] at e
  rw [e.1, opOf_opcode]

/-- What `wholePacket` asks of the words behind a header of the map (30_encoding R68). -/
theorem wholePacket_iff {h : Word} {args : List Word} {op : Op} (e : opOf (hdrOpc h) = some op) :
    wholePacket (h :: args) = true ↔ args.length + 1 = op.format.words := by simp [wholePacket, packetLength, e]

/-- Behind an opcode that the map does not have stands no argument word (30_encoding R68). -/
theorem wholePacket_unmapped {h : Word} {args : List Word} (e : opOf (hdrOpc h) = none) :
    wholePacket (h :: args) = true ↔ args = [] := by simp [wholePacket, packetLength, e]

/-- A whole packet has a word. -/
theorem ne_nil_of_wholePacket {ws : List Word} (h : wholePacket ws = true) : ws ≠ [] := by
  rintro rfl
  cases h

/-- A header the decoder accepts is the encoder's header of the fields read from it. -/
theorem header_of_ok {h : Word} {op : Op} (e : decodeHeader h = .ok op) :
    match op.format with
    | .N => h = plainHeader op
    | .W => h = plainHeader op
    | .S => h = selectHeader op (hdrSel h) ∧ hdrSel h ≠ 3
    | .C => h = countHeader op (hdrN h)
    | .F => h = filterHeader op (hdrAmin h) (hdrAmax h) := by
  rw [decodeHeader_eq_ok, reservedClear_iff] at e
  obtain ⟨h1, h2, h3⟩ := e
  cases hf : op.format <;> simp only [hf] at h2 h3 ⊢
  case S =>
    refine ⟨BitVec.eq_of_toNat_eq ?_, h3 trivial⟩
    rw [selectHeader_toNat, hdrSel, extract_toNat]
    omega
  all_goals
    apply BitVec.eq_of_toNat_eq
    simp only [plainHeader_toNat, countHeader_toNat, filterHeader_toNat, hdrN, hdrAmin, hdrAmax, extract_toNat]
    omega

end Sys2Proof
end

