-- ==== Sys2Proof/Laws/State.lean ====
section
/-! SUPPORT. One lemma per field for each shared update of the state, all true by rfl. -/

namespace Sys2Proof.Machine

/-! ### skip -/

@[simp] theorem skip_sel (s : State) (n : Nat) : (s.skip n).sel = s.sel := rfl
@[simp] theorem skip_pwr (s : State) (n : Nat) : (s.skip n).pwr = s.pwr := rfl
@[simp] theorem skip_link (s : State) (n : Nat) : (s.skip n).link = s.link := rfl
@[simp] theorem skip_clk (s : State) (n : Nat) : (s.skip n).clk = s.clk := rfl
@[simp] theorem skip_ddir (s : State) (n : Nat) : (s.skip n).ddir = s.ddir := rfl
@[simp] theorem skip_offset (s : State) (n : Nat) : (s.skip n).offset = s.offset := rfl
@[simp] theorem skip_scale (s : State) (n : Nat) : (s.skip n).scale = s.scale := rfl
@[simp] theorem skip_ema (s : State) (n : Nat) : (s.skip n).ema = s.ema := rfl
@[simp] theorem skip_stable (s : State) (n : Nat) : (s.skip n).stable = s.stable := rfl
@[simp] theorem skip_initF (s : State) (n : Nat) : (s.skip n).initF = s.initF := rfl
@[simp] theorem skip_dlow (s : State) (n : Nat) : (s.skip n).dlow = s.dlow := rfl
@[simp] theorem skip_dhigh (s : State) (n : Nat) : (s.skip n).dhigh = s.dhigh := rfl
@[simp] theorem skip_amin (s : State) (n : Nat) : (s.skip n).amin = s.amin := rfl
@[simp] theorem skip_amax (s : State) (n : Nat) : (s.skip n).amax = s.amax := rfl
@[simp] theorem skip_deadband (s : State) (n : Nat) : (s.skip n).deadband = s.deadband := rfl
@[simp] theorem skip_res (s : State) (n : Nat) : (s.skip n).res = s.res := rfl
@[simp] theorem skip_fault (s : State) (n : Nat) : (s.skip n).fault = s.fault := rfl
@[simp] theorem skip_phase (s : State) (n : Nat) : (s.skip n).phase = s.phase := rfl
@[simp] theorem skip_shreg (s : State) (n : Nat) : (s.skip n).shreg = s.shreg := rfl
@[simp] theorem skip_sbit (s : State) (n : Nat) : (s.skip n).sbit = s.sbit := rfl
@[simp] theorem skip_acc (s : State) (n : Nat) : (s.skip n).acc = s.acc := rfl
@[simp] theorem skip_cnt (s : State) (n : Nat) : (s.skip n).cnt = s.cnt := rfl
@[simp] theorem skip_port (s : State) (n : Nat) : (s.skip n).port = s.port := rfl
@[simp] theorem skip_draws (s : State) (n : Nat) : (s.skip n).draws = s.draws.drop n := rfl
@[simp] theorem skip_drawn (s : State) (n : Nat) : (s.skip n).drawn = s.drawn + (n - s.draws.length) := rfl
@[simp] theorem skip_trace (s : State) (n : Nat) : (s.skip n).trace = s.trace := rfl
@[simp] theorem skip_armed (s : State) (n : Nat) : (s.skip n).armed = s.armed := rfl
@[simp] theorem skip_sensorPower (s : State) (n : Nat) : (s.skip n).sensorPower = s.sensorPower := rfl

/-! ### record -/

@[simp] theorem record_sel (e : LineEvent) (s : State) : (record e s).sel = s.sel := rfl
@[simp] theorem record_pwr (e : LineEvent) (s : State) : (record e s).pwr = s.pwr := rfl
@[simp] theorem record_link (e : LineEvent) (s : State) : (record e s).link = s.link := rfl
@[simp] theorem record_clk (e : LineEvent) (s : State) : (record e s).clk = s.clk := rfl
@[simp] theorem record_ddir (e : LineEvent) (s : State) : (record e s).ddir = s.ddir := rfl
@[simp] theorem record_offset (e : LineEvent) (s : State) : (record e s).offset = s.offset := rfl
@[simp] theorem record_scale (e : LineEvent) (s : State) : (record e s).scale = s.scale := rfl
@[simp] theorem record_ema (e : LineEvent) (s : State) : (record e s).ema = s.ema := rfl
@[simp] theorem record_stable (e : LineEvent) (s : State) : (record e s).stable = s.stable := rfl
@[simp] theorem record_initF (e : LineEvent) (s : State) : (record e s).initF = s.initF := rfl
@[simp] theorem record_dlow (e : LineEvent) (s : State) : (record e s).dlow = s.dlow := rfl
@[simp] theorem record_dhigh (e : LineEvent) (s : State) : (record e s).dhigh = s.dhigh := rfl
@[simp] theorem record_amin (e : LineEvent) (s : State) : (record e s).amin = s.amin := rfl
@[simp] theorem record_amax (e : LineEvent) (s : State) : (record e s).amax = s.amax := rfl
@[simp] theorem record_deadband (e : LineEvent) (s : State) : (record e s).deadband = s.deadband := rfl
@[simp] theorem record_res (e : LineEvent) (s : State) : (record e s).res = s.res := rfl
@[simp] theorem record_fault (e : LineEvent) (s : State) : (record e s).fault = s.fault := rfl
@[simp] theorem record_phase (e : LineEvent) (s : State) : (record e s).phase = s.phase := rfl
@[simp] theorem record_shreg (e : LineEvent) (s : State) : (record e s).shreg = s.shreg := rfl
@[simp] theorem record_sbit (e : LineEvent) (s : State) : (record e s).sbit = s.sbit := rfl
@[simp] theorem record_acc (e : LineEvent) (s : State) : (record e s).acc = s.acc := rfl
@[simp] theorem record_cnt (e : LineEvent) (s : State) : (record e s).cnt = s.cnt := rfl
@[simp] theorem record_port (e : LineEvent) (s : State) : (record e s).port = s.port := rfl
@[simp] theorem record_draws (e : LineEvent) (s : State) : (record e s).draws = s.draws := rfl
@[simp] theorem record_drawn (e : LineEvent) (s : State) : (record e s).drawn = s.drawn := rfl
@[simp] theorem record_trace (e : LineEvent) (s : State) : (record e s).trace = s.trace ++ [e] := rfl
@[simp] theorem record_armed (e : LineEvent) (s : State) : (record e s).armed = s.armed := rfl
@[simp] theorem record_sensorPower (e : LineEvent) (s : State) : (record e s).sensorPower = s.sensorPower := rfl

/-! ### clkSet -/

@[simp] theorem clkSet_sel (l : Level) (s : State) : (clkSet l s).sel = s.sel := rfl
@[simp] theorem clkSet_pwr (l : Level) (s : State) : (clkSet l s).pwr = s.pwr := rfl
@[simp] theorem clkSet_link (l : Level) (s : State) : (clkSet l s).link = s.link := rfl
@[simp] theorem clkSet_clk (l : Level) (s : State) : (clkSet l s).clk = some l := rfl
@[simp] theorem clkSet_ddir (l : Level) (s : State) : (clkSet l s).ddir = s.ddir := rfl
@[simp] theorem clkSet_offset (l : Level) (s : State) : (clkSet l s).offset = s.offset := rfl
@[simp] theorem clkSet_scale (l : Level) (s : State) : (clkSet l s).scale = s.scale := rfl
@[simp] theorem clkSet_ema (l : Level) (s : State) : (clkSet l s).ema = s.ema := rfl
@[simp] theorem clkSet_stable (l : Level) (s : State) : (clkSet l s).stable = s.stable := rfl
@[simp] theorem clkSet_initF (l : Level) (s : State) : (clkSet l s).initF = s.initF := rfl
@[simp] theorem clkSet_dlow (l : Level) (s : State) : (clkSet l s).dlow = s.dlow := rfl
@[simp] theorem clkSet_dhigh (l : Level) (s : State) : (clkSet l s).dhigh = s.dhigh := rfl
@[simp] theorem clkSet_amin (l : Level) (s : State) : (clkSet l s).amin = s.amin := rfl
@[simp] theorem clkSet_amax (l : Level) (s : State) : (clkSet l s).amax = s.amax := rfl
@[simp] theorem clkSet_deadband (l : Level) (s : State) : (clkSet l s).deadband = s.deadband := rfl
@[simp] theorem clkSet_res (l : Level) (s : State) : (clkSet l s).res = s.res := rfl
@[simp] theorem clkSet_fault (l : Level) (s : State) : (clkSet l s).fault = s.fault := rfl
@[simp] theorem clkSet_phase (l : Level) (s : State) : (clkSet l s).phase = s.phase := rfl
@[simp] theorem clkSet_shreg (l : Level) (s : State) : (clkSet l s).shreg = s.shreg := rfl
@[simp] theorem clkSet_sbit (l : Level) (s : State) : (clkSet l s).sbit = s.sbit := rfl
@[simp] theorem clkSet_acc (l : Level) (s : State) : (clkSet l s).acc = s.acc := rfl
@[simp] theorem clkSet_cnt (l : Level) (s : State) : (clkSet l s).cnt = s.cnt := rfl
@[simp] theorem clkSet_port (l : Level) (s : State) : (clkSet l s).port = s.port := rfl
@[simp] theorem clkSet_draws (l : Level) (s : State) : (clkSet l s).draws = s.draws := rfl
@[simp] theorem clkSet_drawn (l : Level) (s : State) : (clkSet l s).drawn = s.drawn := rfl
@[simp] theorem clkSet_trace (l : Level) (s : State) : (clkSet l s).trace = s.trace ++ [.clk l] := rfl
@[simp] theorem clkSet_armed (l : Level) (s : State) : (clkSet l s).armed = wakeArmed l s := rfl
@[simp] theorem clkSet_sensorPower (l : Level) (s : State) : (clkSet l s).sensorPower = wakePower l s := rfl

/-! ### dataSample -/

@[simp] theorem dataSample_sel (s : State) : (dataSample s).2.sel = s.sel := rfl
@[simp] theorem dataSample_pwr (s : State) : (dataSample s).2.pwr = s.pwr := rfl
@[simp] theorem dataSample_link (s : State) : (dataSample s).2.link = s.link := rfl
@[simp] theorem dataSample_clk (s : State) : (dataSample s).2.clk = s.clk := rfl
@[simp] theorem dataSample_ddir (s : State) : (dataSample s).2.ddir = s.ddir := rfl
@[simp] theorem dataSample_offset (s : State) : (dataSample s).2.offset = s.offset := rfl
@[simp] theorem dataSample_scale (s : State) : (dataSample s).2.scale = s.scale := rfl
@[simp] theorem dataSample_ema (s : State) : (dataSample s).2.ema = s.ema := rfl
@[simp] theorem dataSample_stable (s : State) : (dataSample s).2.stable = s.stable := rfl
@[simp] theorem dataSample_initF (s : State) : (dataSample s).2.initF = s.initF := rfl
@[simp] theorem dataSample_dlow (s : State) : (dataSample s).2.dlow = s.dlow := rfl
@[simp] theorem dataSample_dhigh (s : State) : (dataSample s).2.dhigh = s.dhigh := rfl
@[simp] theorem dataSample_amin (s : State) : (dataSample s).2.amin = s.amin := rfl
@[simp] theorem dataSample_amax (s : State) : (dataSample s).2.amax = s.amax := rfl
@[simp] theorem dataSample_deadband (s : State) : (dataSample s).2.deadband = s.deadband := rfl
@[simp] theorem dataSample_res (s : State) : (dataSample s).2.res = s.res := rfl
@[simp] theorem dataSample_fault (s : State) : (dataSample s).2.fault = s.fault := rfl
@[simp] theorem dataSample_phase (s : State) : (dataSample s).2.phase = s.phase := rfl
@[simp] theorem dataSample_shreg (s : State) : (dataSample s).2.shreg = s.shreg := rfl
@[simp] theorem dataSample_sbit (s : State) : (dataSample s).2.sbit = s.sbit := rfl
@[simp] theorem dataSample_acc (s : State) : (dataSample s).2.acc = s.acc := rfl
@[simp] theorem dataSample_cnt (s : State) : (dataSample s).2.cnt = s.cnt := rfl
@[simp] theorem dataSample_port (s : State) : (dataSample s).2.port = s.port := rfl
@[simp] theorem dataSample_draws (s : State) : (dataSample s).2.draws = s.draws.drop 1 := rfl
@[simp] theorem dataSample_drawn (s : State) : (dataSample s).2.drawn = s.drawn + (1 - s.draws.length) := rfl
@[simp] theorem dataSample_trace (s : State) : (dataSample s).2.trace = s.trace ++ [.sample (s.peek 0)] := rfl
@[simp] theorem dataSample_armed (s : State) : (dataSample s).2.armed = s.armed := rfl
@[simp] theorem dataSample_sensorPower (s : State) : (dataSample s).2.sensorPower = s.sensorPower := rfl

/-! ### dirIn -/

@[simp] theorem dirIn_sel (s : State) : (dirIn s).sel = s.sel := rfl
@[simp] theorem dirIn_pwr (s : State) : (dirIn s).pwr = s.pwr := rfl
@[simp] theorem dirIn_link (s : State) : (dirIn s).link = s.link := rfl
@[simp] theorem dirIn_clk (s : State) : (dirIn s).clk = s.clk := rfl
@[simp] theorem dirIn_ddir (s : State) : (dirIn s).ddir = .input := rfl
@[simp] theorem dirIn_offset (s : State) : (dirIn s).offset = s.offset := rfl
@[simp] theorem dirIn_scale (s : State) : (dirIn s).scale = s.scale := rfl
@[simp] theorem dirIn_ema (s : State) : (dirIn s).ema = s.ema := rfl
@[simp] theorem dirIn_stable (s : State) : (dirIn s).stable = s.stable := rfl
@[simp] theorem dirIn_initF (s : State) : (dirIn s).initF = s.initF := rfl
@[simp] theorem dirIn_dlow (s : State) : (dirIn s).dlow = s.dlow := rfl
@[simp] theorem dirIn_dhigh (s : State) : (dirIn s).dhigh = s.dhigh := rfl
@[simp] theorem dirIn_amin (s : State) : (dirIn s).amin = s.amin := rfl
@[simp] theorem dirIn_amax (s : State) : (dirIn s).amax = s.amax := rfl
@[simp] theorem dirIn_deadband (s : State) : (dirIn s).deadband = s.deadband := rfl
@[simp] theorem dirIn_res (s : State) : (dirIn s).res = s.res := rfl
@[simp] theorem dirIn_fault (s : State) : (dirIn s).fault = s.fault := rfl
@[simp] theorem dirIn_phase (s : State) : (dirIn s).phase = s.phase := rfl
@[simp] theorem dirIn_shreg (s : State) : (dirIn s).shreg = s.shreg := rfl
@[simp] theorem dirIn_sbit (s : State) : (dirIn s).sbit = s.sbit := rfl
@[simp] theorem dirIn_acc (s : State) : (dirIn s).acc = s.acc := rfl
@[simp] theorem dirIn_cnt (s : State) : (dirIn s).cnt = s.cnt := rfl
@[simp] theorem dirIn_port (s : State) : (dirIn s).port = s.port := rfl
@[simp] theorem dirIn_draws (s : State) : (dirIn s).draws = s.draws := rfl
@[simp] theorem dirIn_drawn (s : State) : (dirIn s).drawn = s.drawn := rfl
@[simp] theorem dirIn_trace (s : State) : (dirIn s).trace = s.trace ++ [.dirIn] := rfl
@[simp] theorem dirIn_armed (s : State) : (dirIn s).armed = s.armed := rfl
@[simp] theorem dirIn_sensorPower (s : State) : (dirIn s).sensorPower = s.sensorPower := rfl

/-! ### holdPd -/

@[simp] theorem holdPd_sel (s : State) : (holdPd s).sel = s.sel := rfl
@[simp] theorem holdPd_pwr (s : State) : (holdPd s).pwr = s.pwr := rfl
@[simp] theorem holdPd_link (s : State) : (holdPd s).link = s.link := rfl
@[simp] theorem holdPd_clk (s : State) : (holdPd s).clk = s.clk := rfl
@[simp] theorem holdPd_ddir (s : State) : (holdPd s).ddir = s.ddir := rfl
@[simp] theorem holdPd_offset (s : State) : (holdPd s).offset = s.offset := rfl
@[simp] theorem holdPd_scale (s : State) : (holdPd s).scale = s.scale := rfl
@[simp] theorem holdPd_ema (s : State) : (holdPd s).ema = s.ema := rfl
@[simp] theorem holdPd_stable (s : State) : (holdPd s).stable = s.stable := rfl
@[simp] theorem holdPd_initF (s : State) : (holdPd s).initF = s.initF := rfl
@[simp] theorem holdPd_dlow (s : State) : (holdPd s).dlow = s.dlow := rfl
@[simp] theorem holdPd_dhigh (s : State) : (holdPd s).dhigh = s.dhigh := rfl
@[simp] theorem holdPd_amin (s : State) : (holdPd s).amin = s.amin := rfl
@[simp] theorem holdPd_amax (s : State) : (holdPd s).amax = s.amax := rfl
@[simp] theorem holdPd_deadband (s : State) : (holdPd s).deadband = s.deadband := rfl
@[simp] theorem holdPd_res (s : State) : (holdPd s).res = s.res := rfl
@[simp] theorem holdPd_fault (s : State) : (holdPd s).fault = s.fault := rfl
@[simp] theorem holdPd_phase (s : State) : (holdPd s).phase = s.phase := rfl
@[simp] theorem holdPd_shreg (s : State) : (holdPd s).shreg = s.shreg := rfl
@[simp] theorem holdPd_sbit (s : State) : (holdPd s).sbit = s.sbit := rfl
@[simp] theorem holdPd_acc (s : State) : (holdPd s).acc = s.acc := rfl
@[simp] theorem holdPd_cnt (s : State) : (holdPd s).cnt = s.cnt := rfl
@[simp] theorem holdPd_port (s : State) : (holdPd s).port = s.port := rfl
@[simp] theorem holdPd_draws (s : State) : (holdPd s).draws = s.draws := rfl
@[simp] theorem holdPd_drawn (s : State) : (holdPd s).drawn = s.drawn := rfl
@[simp] theorem holdPd_trace (s : State) : (holdPd s).trace = s.trace ++ [.holdPd] := rfl
@[simp] theorem holdPd_armed (s : State) : (holdPd s).armed = s.armed := rfl
@[simp] theorem holdPd_sensorPower (s : State) : (holdPd s).sensorPower = some .powerDown := rfl

/-! ### goto -/

@[simp] theorem goto_sel (p : Phase) (s : State) : (goto p s).sel = s.sel := rfl
@[simp] theorem goto_pwr (p : Phase) (s : State) : (goto p s).pwr = s.pwr := rfl
@[simp] theorem goto_link (p : Phase) (s : State) : (goto p s).link = s.link := rfl
@[simp] theorem goto_clk (p : Phase) (s : State) : (goto p s).clk = s.clk := rfl
@[simp] theorem goto_ddir (p : Phase) (s : State) : (goto p s).ddir = s.ddir := rfl
@[simp] theorem goto_offset (p : Phase) (s : State) : (goto p s).offset = s.offset := rfl
@[simp] theorem goto_scale (p : Phase) (s : State) : (goto p s).scale = s.scale := rfl
@[simp] theorem goto_ema (p : Phase) (s : State) : (goto p s).ema = s.ema := rfl
@[simp] theorem goto_stable (p : Phase) (s : State) : (goto p s).stable = s.stable := rfl
@[simp] theorem goto_initF (p : Phase) (s : State) : (goto p s).initF = s.initF := rfl
@[simp] theorem goto_dlow (p : Phase) (s : State) : (goto p s).dlow = s.dlow := rfl
@[simp] theorem goto_dhigh (p : Phase) (s : State) : (goto p s).dhigh = s.dhigh := rfl
@[simp] theorem goto_amin (p : Phase) (s : State) : (goto p s).amin = s.amin := rfl
@[simp] theorem goto_amax (p : Phase) (s : State) : (goto p s).amax = s.amax := rfl
@[simp] theorem goto_deadband (p : Phase) (s : State) : (goto p s).deadband = s.deadband := rfl
@[simp] theorem goto_res (p : Phase) (s : State) : (goto p s).res = s.res := rfl
@[simp] theorem goto_fault (p : Phase) (s : State) : (goto p s).fault = s.fault := rfl
@[simp] theorem goto_phase (p : Phase) (s : State) : (goto p s).phase = p := rfl
@[simp] theorem goto_shreg (p : Phase) (s : State) : (goto p s).shreg = s.shreg := rfl
@[simp] theorem goto_sbit (p : Phase) (s : State) : (goto p s).sbit = s.sbit := rfl
@[simp] theorem goto_acc (p : Phase) (s : State) : (goto p s).acc = s.acc := rfl
@[simp] theorem goto_cnt (p : Phase) (s : State) : (goto p s).cnt = s.cnt := rfl
@[simp] theorem goto_port (p : Phase) (s : State) : (goto p s).port = s.port := rfl
@[simp] theorem goto_draws (p : Phase) (s : State) : (goto p s).draws = s.draws := rfl
@[simp] theorem goto_drawn (p : Phase) (s : State) : (goto p s).drawn = s.drawn := rfl
@[simp] theorem goto_trace (p : Phase) (s : State) : (goto p s).trace = s.trace := rfl
@[simp] theorem goto_armed (p : Phase) (s : State) : (goto p s).armed = s.armed := rfl
@[simp] theorem goto_sensorPower (p : Phase) (s : State) : (goto p s).sensorPower = s.sensorPower := rfl

/-! ### respond -/

@[simp] theorem respond_sel (v : Int) (s : State) : (respond v s).sel = s.sel := rfl
@[simp] theorem respond_pwr (v : Int) (s : State) : (respond v s).pwr = s.pwr := rfl
@[simp] theorem respond_link (v : Int) (s : State) : (respond v s).link = s.link := rfl
@[simp] theorem respond_clk (v : Int) (s : State) : (respond v s).clk = s.clk := rfl
@[simp] theorem respond_ddir (v : Int) (s : State) : (respond v s).ddir = s.ddir := rfl
@[simp] theorem respond_offset (v : Int) (s : State) : (respond v s).offset = s.offset := rfl
@[simp] theorem respond_scale (v : Int) (s : State) : (respond v s).scale = s.scale := rfl
@[simp] theorem respond_ema (v : Int) (s : State) : (respond v s).ema = s.ema := rfl
@[simp] theorem respond_stable (v : Int) (s : State) : (respond v s).stable = s.stable := rfl
@[simp] theorem respond_initF (v : Int) (s : State) : (respond v s).initF = s.initF := rfl
@[simp] theorem respond_dlow (v : Int) (s : State) : (respond v s).dlow = s.dlow := rfl
@[simp] theorem respond_dhigh (v : Int) (s : State) : (respond v s).dhigh = s.dhigh := rfl
@[simp] theorem respond_amin (v : Int) (s : State) : (respond v s).amin = s.amin := rfl
@[simp] theorem respond_amax (v : Int) (s : State) : (respond v s).amax = s.amax := rfl
@[simp] theorem respond_deadband (v : Int) (s : State) : (respond v s).deadband = s.deadband := rfl
@[simp] theorem respond_res (v : Int) (s : State) : (respond v s).res = some (w32 v) := rfl
@[simp] theorem respond_fault (v : Int) (s : State) : (respond v s).fault = s.fault := rfl
@[simp] theorem respond_phase (v : Int) (s : State) : (respond v s).phase = s.phase := rfl
@[simp] theorem respond_shreg (v : Int) (s : State) : (respond v s).shreg = s.shreg := rfl
@[simp] theorem respond_sbit (v : Int) (s : State) : (respond v s).sbit = s.sbit := rfl
@[simp] theorem respond_acc (v : Int) (s : State) : (respond v s).acc = s.acc := rfl
@[simp] theorem respond_cnt (v : Int) (s : State) : (respond v s).cnt = s.cnt := rfl
@[simp] theorem respond_port (v : Int) (s : State) : (respond v s).port = s.port := rfl
@[simp] theorem respond_draws (v : Int) (s : State) : (respond v s).draws = s.draws := rfl
@[simp] theorem respond_drawn (v : Int) (s : State) : (respond v s).drawn = s.drawn := rfl
@[simp] theorem respond_trace (v : Int) (s : State) : (respond v s).trace = s.trace := rfl
@[simp] theorem respond_armed (v : Int) (s : State) : (respond v s).armed = s.armed := rfl
@[simp] theorem respond_sensorPower (v : Int) (s : State) : (respond v s).sensorPower = s.sensorPower := rfl

/-! ### raiseFault -/

@[simp] theorem raiseFault_sel (opc : Byte) (c : Cause) (s : State) : (raiseFault opc c s).sel = s.sel := rfl
@[simp] theorem raiseFault_pwr (opc : Byte) (c : Cause) (s : State) : (raiseFault opc c s).pwr = s.pwr := rfl
@[simp] theorem raiseFault_link (opc : Byte) (c : Cause) (s : State) : (raiseFault opc c s).link = s.link := rfl
@[simp] theorem raiseFault_clk (opc : Byte) (c : Cause) (s : State) : (raiseFault opc c s).clk = s.clk := rfl
@[simp] theorem raiseFault_ddir (opc : Byte) (c : Cause) (s : State) : (raiseFault opc c s).ddir = s.ddir := rfl
@[simp] theorem raiseFault_offset (opc : Byte) (c : Cause) (s : State) : (raiseFault opc c s).offset = s.offset := rfl
@[simp] theorem raiseFault_scale (opc : Byte) (c : Cause) (s : State) : (raiseFault opc c s).scale = s.scale := rfl
@[simp] theorem raiseFault_ema (opc : Byte) (c : Cause) (s : State) : (raiseFault opc c s).ema = s.ema := rfl
@[simp] theorem raiseFault_stable (opc : Byte) (c : Cause) (s : State) : (raiseFault opc c s).stable = s.stable := rfl
@[simp] theorem raiseFault_initF (opc : Byte) (c : Cause) (s : State) : (raiseFault opc c s).initF = s.initF := rfl
@[simp] theorem raiseFault_dlow (opc : Byte) (c : Cause) (s : State) : (raiseFault opc c s).dlow = s.dlow := rfl
@[simp] theorem raiseFault_dhigh (opc : Byte) (c : Cause) (s : State) : (raiseFault opc c s).dhigh = s.dhigh := rfl
@[simp] theorem raiseFault_amin (opc : Byte) (c : Cause) (s : State) : (raiseFault opc c s).amin = s.amin := rfl
@[simp] theorem raiseFault_amax (opc : Byte) (c : Cause) (s : State) : (raiseFault opc c s).amax = s.amax := rfl
@[simp] theorem raiseFault_deadband (opc : Byte) (c : Cause) (s : State) : (raiseFault opc c s).deadband = s.deadband := rfl
@[simp] theorem raiseFault_res (opc : Byte) (c : Cause) (s : State) : (raiseFault opc c s).res = s.res := rfl
@[simp] theorem raiseFault_fault (opc : Byte) (c : Cause) (s : State) : (raiseFault opc c s).fault = faultRecord opc c := rfl
@[simp] theorem raiseFault_phase (opc : Byte) (c : Cause) (s : State) : (raiseFault opc c s).phase = .halted := rfl
@[simp] theorem raiseFault_shreg (opc : Byte) (c : Cause) (s : State) : (raiseFault opc c s).shreg = s.shreg := rfl
@[simp] theorem raiseFault_sbit (opc : Byte) (c : Cause) (s : State) : (raiseFault opc c s).sbit = s.sbit := rfl
@[simp] theorem raiseFault_acc (opc : Byte) (c : Cause) (s : State) : (raiseFault opc c s).acc = s.acc := rfl
@[simp] theorem raiseFault_cnt (opc : Byte) (c : Cause) (s : State) : (raiseFault opc c s).cnt = s.cnt := rfl
@[simp] theorem raiseFault_port (opc : Byte) (c : Cause) (s : State) : (raiseFault opc c s).port = s.port := rfl
@[simp] theorem raiseFault_draws (opc : Byte) (c : Cause) (s : State) : (raiseFault opc c s).draws = s.draws := rfl
@[simp] theorem raiseFault_drawn (opc : Byte) (c : Cause) (s : State) : (raiseFault opc c s).drawn = s.drawn := rfl
@[simp] theorem raiseFault_trace (opc : Byte) (c : Cause) (s : State) : (raiseFault opc c s).trace = s.trace := rfl
@[simp] theorem raiseFault_armed (opc : Byte) (c : Cause) (s : State) : (raiseFault opc c s).armed = s.armed := rfl
@[simp] theorem raiseFault_sensorPower (opc : Byte) (c : Cause) (s : State) : (raiseFault opc c s).sensorPower = s.sensorPower := rfl

/-! ### resetTo -/

@[simp] theorem resetTo_sel (P : Params) (s : State) : (resetTo P s).sel = (State.construct P).sel := rfl
@[simp] theorem resetTo_pwr (P : Params) (s : State) : (resetTo P s).pwr = (State.construct P).pwr := rfl
@[simp] theorem resetTo_link (P : Params) (s : State) : (resetTo P s).link = (State.construct P).link := rfl
@[simp] theorem resetTo_clk (P : Params) (s : State) : (resetTo P s).clk = (State.construct P).clk := rfl
@[simp] theorem resetTo_ddir (P : Params) (s : State) : (resetTo P s).ddir = (State.construct P).ddir := rfl
@[simp] theorem resetTo_offset (P : Params) (s : State) : (resetTo P s).offset = (State.construct P).offset := rfl
@[simp] theorem resetTo_scale (P : Params) (s : State) : (resetTo P s).scale = (State.construct P).scale := rfl
@[simp] theorem resetTo_ema (P : Params) (s : State) : (resetTo P s).ema = (State.construct P).ema := rfl
@[simp] theorem resetTo_stable (P : Params) (s : State) : (resetTo P s).stable = (State.construct P).stable := rfl
@[simp] theorem resetTo_initF (P : Params) (s : State) : (resetTo P s).initF = (State.construct P).initF := rfl
@[simp] theorem resetTo_dlow (P : Params) (s : State) : (resetTo P s).dlow = (State.construct P).dlow := rfl
@[simp] theorem resetTo_dhigh (P : Params) (s : State) : (resetTo P s).dhigh = (State.construct P).dhigh := rfl
@[simp] theorem resetTo_amin (P : Params) (s : State) : (resetTo P s).amin = (State.construct P).amin := rfl
@[simp] theorem resetTo_amax (P : Params) (s : State) : (resetTo P s).amax = (State.construct P).amax := rfl
@[simp] theorem resetTo_deadband (P : Params) (s : State) : (resetTo P s).deadband = (State.construct P).deadband := rfl
@[simp] theorem resetTo_res (P : Params) (s : State) : (resetTo P s).res = (State.construct P).res := rfl
@[simp] theorem resetTo_fault (P : Params) (s : State) : (resetTo P s).fault = (State.construct P).fault := rfl
@[simp] theorem resetTo_phase (P : Params) (s : State) : (resetTo P s).phase = (State.construct P).phase := rfl
@[simp] theorem resetTo_shreg (P : Params) (s : State) : (resetTo P s).shreg = (State.construct P).shreg := rfl
@[simp] theorem resetTo_sbit (P : Params) (s : State) : (resetTo P s).sbit = (State.construct P).sbit := rfl
@[simp] theorem resetTo_acc (P : Params) (s : State) : (resetTo P s).acc = (State.construct P).acc := rfl
@[simp] theorem resetTo_cnt (P : Params) (s : State) : (resetTo P s).cnt = (State.construct P).cnt := rfl
@[simp] theorem resetTo_port (P : Params) (s : State) : (resetTo P s).port = [] := rfl
@[simp] theorem resetTo_draws (P : Params) (s : State) : (resetTo P s).draws = s.draws := rfl
@[simp] theorem resetTo_drawn (P : Params) (s : State) : (resetTo P s).drawn = s.drawn := rfl
@[simp] theorem resetTo_trace (P : Params) (s : State) : (resetTo P s).trace = s.trace := rfl
@[simp] theorem resetTo_armed (P : Params) (s : State) : (resetTo P s).armed = (State.construct P).armed := rfl
@[simp] theorem resetTo_sensorPower (P : Params) (s : State) : (resetTo P s).sensorPower = (State.construct P).sensorPower := rfl

@[simp] theorem dataSample_fst (s : State) : (dataSample s).1 = s.peek 0 := rfl

end Sys2Proof.Machine
end

