-- ==== Sys2Proof/Laws/Ops.lean ====
section
/-! SUPPORT. What each shared operation does, said once: draws, levels, runs, the fault record, the filter's frame. -/

namespace Sys2Proof.Machine

/-! ### Draws -/

@[simp] theorem skip_zero (s : State) : s.skip 0 = s := by cases s; simp [State.skip]

/-- The count of free levels after `a` and then `b` draws from a list of `n`. -/
theorem drawn_add (d a b n : Nat) : d + (a - n) + (b - (n - a)) = d + (a + b - n) := by omega

@[simp] theorem skip_skip (s : State) (a b : Nat) : (s.skip a).skip b = s.skip (a + b) := by
  cases s
  simp [State.skip, List.drop_drop, drawn_add]

@[simp] theorem peek_skip (s : State) (a n : Nat) : (s.skip a).peek n = s.peek (a + n) := by
  simp only [State.peek, State.skip, List.length_drop, List.getD_eq_getElem?_getD, List.getElem?_drop]
  by_cases h : a + n < s.draws.length
  · simp [h]
  · have e : s.drawn + (a - s.draws.length) + (n - (s.draws.length - a)) = s.drawn + (a + n - s.draws.length) := by omega
    simp [h, e]

/-- The upcoming levels depend on the list of draws and on the count of free levels only. -/
theorem peek_congr {s t : State} (hd : s.draws = t.draws) (hn : s.drawn = t.drawn) (n : Nat) : s.peek n = t.peek n := by
  simp [State.peek, hd, hn]

theorem dataSample_eq (s : State) : dataSample s = (s.peek 0, record (.sample (s.peek 0)) (s.skip 1)) := rfl

@[simp] theorem peek_record (e : LineEvent) (s : State) (n : Nat) : (record e s).peek n = s.peek n := rfl
@[simp] theorem peek_clkSet (l : Level) (s : State) (n : Nat) : (clkSet l s).peek n = s.peek n := rfl
@[simp] theorem peek_dirIn (s : State) (n : Nat) : (dirIn s).peek n = s.peek n := rfl
@[simp] theorem peek_goto (p : Phase) (s : State) (n : Nat) : (goto p s).peek n = s.peek n := rfl

/-! ### Runs -/

@[simp] theorem run_zero (s : State) : run 0 s = .next s := rfl

theorem run_succ (k : Nat) (s : State) :
    run (k + 1) s = match step s with | .next t => run k t | .fault e => .fault e | .refused e => .refused e := by
  simp only [run, Host.Core.run]
  cases h : step s <;> (rw [show core.step s = _ from h] <;> rfl)

theorem run_succ_next {k : Nat} {s t : State} (h : step s = .next t) : run (k + 1) s = run k t := by
  simp [run_succ, h]

theorem run_one (s : State) : run 1 s = step s := by
  simp only [run_succ]; cases step s <;> rfl

/-- A run of `a + b` steps is a run of `a` and then one of `b`. -/
theorem run_add {a b : Nat} {s t : State} (h : run a s = .next t) : run (a + b) s = run b t := by
  induction a generalizing s with
  | zero => simp only [run_zero, Host.Outcome.next.injEq] at h; simp [h]
  | succ a ih =>
    rw [show a + 1 + b = (a + b) + 1 by omega]
    simp only [run_succ] at h ⊢
    cases hs : step s with
    | next u => simp only [hs] at h ⊢; exact ih h
    | fault e => simp [hs] at h
    | refused e => simp [hs] at h

/-! ### The step, by phase -/

theorem step_run {s : State} {c : Instr} {p : Pos} (h : s.phase = .run c p) : step s = advance c p s := by
  simp [step, h]

theorem step_halted {s : State} (h : s.phase = .halted) : step s = .next (ignoreWord s) := by simp [step, h]

theorem step_idle_ok {s : State} {i : Instr} {rest : List Word} (h : s.phase = .idle) (hd : decode s.port = .ok (i, rest)) :
    step s = exec i { s with port := rest } := by simp [step, h, takePacket, hd]

theorem step_idle_error {s : State} {e : DecodeError} (h : s.phase = .idle) (hd : decode s.port = .error e) :
    step s = .next (noPacket e s) := by simp [step, h, takePacket, hd]

/-! ### The host's and the platform's moves -/

/-- Everything a host write that is not refused can do (70_reset R139). -/
theorem hostWrite_next {ws : List Word} {s t : State} (h : hostWrite ws s = .next t) :
    (s.phase = .halted ∧ t = s) ∨
    (s.phase = .idle ∧ wholePacket ws = true ∧ t = { s with port := s.port ++ ws }) := by
  cases hp : s.phase <;> simp only [hostWrite, State.status, hp] at h
  case idle =>
    by_cases hw : wholePacket ws = true
    · rw [if_pos hw] at h
      exact .inr ⟨rfl, hw, by cases h; rfl⟩
    · rw [if_neg hw] at h
      cases h
  case halted => exact .inl ⟨rfl, by cases h; rfl⟩
  case run => cases h

/-- Everything a reset that is not refused can do (70_reset R134). -/
theorem platformReset_next {P : Params} {s t : State} (h : platformReset P s = .next t) :
    P.valid = true ∧ t = resetTo P s := by
  by_cases hv : P.valid = true
  · rw [platformReset, if_pos hv] at h
    exact ⟨hv, by cases h; rfl⟩
  · rw [platformReset, if_neg hv] at h
    cases h

/-! ### Runs under an environment -/

@[simp] theorem runUnder_zero (env : Nat → Level) (s : State) : runUnder env 0 s = .next s := rfl

theorem runUnder_succ_next {env : Nat → Level} {k : Nat} {s t : State} (h : stepUnder (env 0) s = .next t) :
    runUnder env (k + 1) s = runUnder (fun n => env (n + 1)) k t := by simp [runUnder, h]

/-- A run of `a + b` steps is a run of `a` and then one of `b` under the rest of the environment. -/
theorem runUnder_add {env : Nat → Level} {a b : Nat} {s t : State} (h : runUnder env a s = .next t) :
    runUnder env (a + b) s = runUnder (fun n => env (a + n)) b t := by
  induction a generalizing env s with
  | zero =>
    simp only [runUnder_zero, Host.Outcome.next.injEq] at h
    simp [h]
  | succ a ih =>
    rw [show a + 1 + b = (a + b) + 1 by omega]
    cases hs : stepUnder (env 0) s with
    | next u =>
      rw [runUnder_succ_next hs] at h ⊢
      rw [ih h]
      simp [Nat.add_right_comm, Nat.add_assoc]
    | fault e => simp [runUnder, hs] at h
    | refused e => simp [runUnder, hs] at h

/-! ### The fault record -/

@[simp] theorem faultRecord_fv (opc : Byte) (c : Cause) : (faultRecord opc c).getLsbD 0 = true := by
  cases c <;> simp only [faultRecord, BitVec.getLsbD_append, Cause.code] <;> simp

theorem faultRecord_ne_zero (opc : Byte) (c : Cause) : faultRecord opc c ≠ 0 := by
  intro h
  have := faultRecord_fv opc c
  simp [h] at this

/-! ### The filter's frame -/

/-- `FilterUpdateP` writes `EMA`, `STABLE` and `INIT_F`, and nothing else (42_filter R96). -/
theorem filterUpdateP_frame (raw : Int) (s : State) :
    (filterUpdateP raw s).2 =
      { s with ema := (filterUpdateP raw s).2.ema, stable := (filterUpdateP raw s).2.stable, initF := true } := by
  unfold filterUpdateP
  split
  · rfl
  · rename_i h
    cases s
    simp_all

/-! The fields `FilterUpdateP` does not write. -/

@[simp] theorem filterUpdateP_sel (raw : Int) (s : State) : (filterUpdateP raw s).2.sel = s.sel := by rw [filterUpdateP_frame]
@[simp] theorem filterUpdateP_pwr (raw : Int) (s : State) : (filterUpdateP raw s).2.pwr = s.pwr := by rw [filterUpdateP_frame]
@[simp] theorem filterUpdateP_link (raw : Int) (s : State) : (filterUpdateP raw s).2.link = s.link := by rw [filterUpdateP_frame]
@[simp] theorem filterUpdateP_clk (raw : Int) (s : State) : (filterUpdateP raw s).2.clk = s.clk := by rw [filterUpdateP_frame]
@[simp] theorem filterUpdateP_ddir (raw : Int) (s : State) : (filterUpdateP raw s).2.ddir = s.ddir := by rw [filterUpdateP_frame]
@[simp] theorem filterUpdateP_offset (raw : Int) (s : State) : (filterUpdateP raw s).2.offset = s.offset := by rw [filterUpdateP_frame]
@[simp] theorem filterUpdateP_scale (raw : Int) (s : State) : (filterUpdateP raw s).2.scale = s.scale := by rw [filterUpdateP_frame]
@[simp] theorem filterUpdateP_dlow (raw : Int) (s : State) : (filterUpdateP raw s).2.dlow = s.dlow := by rw [filterUpdateP_frame]
@[simp] theorem filterUpdateP_dhigh (raw : Int) (s : State) : (filterUpdateP raw s).2.dhigh = s.dhigh := by rw [filterUpdateP_frame]
@[simp] theorem filterUpdateP_amin (raw : Int) (s : State) : (filterUpdateP raw s).2.amin = s.amin := by rw [filterUpdateP_frame]
@[simp] theorem filterUpdateP_amax (raw : Int) (s : State) : (filterUpdateP raw s).2.amax = s.amax := by rw [filterUpdateP_frame]
@[simp] theorem filterUpdateP_deadband (raw : Int) (s : State) : (filterUpdateP raw s).2.deadband = s.deadband := by rw [filterUpdateP_frame]
@[simp] theorem filterUpdateP_res (raw : Int) (s : State) : (filterUpdateP raw s).2.res = s.res := by rw [filterUpdateP_frame]
@[simp] theorem filterUpdateP_fault (raw : Int) (s : State) : (filterUpdateP raw s).2.fault = s.fault := by rw [filterUpdateP_frame]
@[simp] theorem filterUpdateP_phase (raw : Int) (s : State) : (filterUpdateP raw s).2.phase = s.phase := by rw [filterUpdateP_frame]
@[simp] theorem filterUpdateP_shreg (raw : Int) (s : State) : (filterUpdateP raw s).2.shreg = s.shreg := by rw [filterUpdateP_frame]
@[simp] theorem filterUpdateP_sbit (raw : Int) (s : State) : (filterUpdateP raw s).2.sbit = s.sbit := by rw [filterUpdateP_frame]
@[simp] theorem filterUpdateP_acc (raw : Int) (s : State) : (filterUpdateP raw s).2.acc = s.acc := by rw [filterUpdateP_frame]
@[simp] theorem filterUpdateP_cnt (raw : Int) (s : State) : (filterUpdateP raw s).2.cnt = s.cnt := by rw [filterUpdateP_frame]
@[simp] theorem filterUpdateP_port (raw : Int) (s : State) : (filterUpdateP raw s).2.port = s.port := by rw [filterUpdateP_frame]
@[simp] theorem filterUpdateP_draws (raw : Int) (s : State) : (filterUpdateP raw s).2.draws = s.draws := by rw [filterUpdateP_frame]
@[simp] theorem filterUpdateP_drawn (raw : Int) (s : State) : (filterUpdateP raw s).2.drawn = s.drawn := by rw [filterUpdateP_frame]
@[simp] theorem filterUpdateP_trace (raw : Int) (s : State) : (filterUpdateP raw s).2.trace = s.trace := by rw [filterUpdateP_frame]
@[simp] theorem filterUpdateP_armed (raw : Int) (s : State) : (filterUpdateP raw s).2.armed = s.armed := by rw [filterUpdateP_frame]
@[simp] theorem filterUpdateP_sensorPower (raw : Int) (s : State) : (filterUpdateP raw s).2.sensorPower = s.sensorPower := by rw [filterUpdateP_frame]
@[simp] theorem filterUpdateP_initF (raw : Int) (s : State) : (filterUpdateP raw s).2.initF = true := by rw [filterUpdateP_frame]

theorem filterUpdateP_seed {s : State} (raw : Int) (h : s.initF = false) :
    filterUpdateP raw s = (raw, { s with ema := w32 raw, stable := w32 raw, initF := true }) := by simp [filterUpdateP, h]

theorem filterUpdateP_next {s : State} (raw : Int) (h : s.initF = true) :
    filterUpdateP raw s =
      (s32 (nextStable (nextEma raw s) s),
       { s with ema := nextEma raw s, stable := nextStable (nextEma raw s) s }) := by simp [filterUpdateP, h]

/-- What `FilterUpdateP` reads of the state (42_filter R96): two states that agree on it give the same results. -/
theorem filterUpdateP_congr {s t : State} (raw : Int) (he : s.initF = true → s.ema = t.ema ∧ s.stable = t.stable)
    (hi : s.initF = t.initF) (h1 : s.dlow = t.dlow) (h2 : s.dhigh = t.dhigh) (h3 : s.amin = t.amin) (h4 : s.amax = t.amax)
    (h5 : s.deadband = t.deadband) :
    (filterUpdateP raw s).1 = (filterUpdateP raw t).1 ∧ (filterUpdateP raw s).2.ema = (filterUpdateP raw t).2.ema ∧
      (filterUpdateP raw s).2.stable = (filterUpdateP raw t).2.stable := by
  by_cases hf : s.initF = true
  · obtain ⟨ha, hb⟩ := he hf
    have e : nextEma raw s = nextEma raw t := by simp only [nextEma, emaStep, alpha, ha, h1, h2, h3, h4]
    have u : nextStable (nextEma raw t) s = nextStable (nextEma raw t) t := by simp only [nextStable, hb, h5]
    simp [filterUpdateP_next, hf, ← hi, e, u]
  · have hs' : s.initF = false := by simpa using hf
    simp [filterUpdateP_seed, hs', ← hi]

end Sys2Proof.Machine
end

