-- ==== Sys2Proof/Laws/Link.lean ====
section
/-! SUPPORT. What the steps of a transaction do, one lemma a position, and one for a whole pulse. -/

namespace Sys2Proof.Machine

/-! ### The preconditions -/

theorem linePre_up {op : Op} {s : State} {body : Result} (h : linkUp s) : linePre op s body = body := by
  simp [linePre, h.1, h.2]

/-- Everything `LinePre` can answer: a fault with nothing else changed, or the rest of the command. -/
theorem linePre_cases {op : Op} {s t : State} {body : Result} (h : linePre op s body = .next t) :
    (∃ c, t = raiseFault op.opcode c s) ∨ (linkUp s ∧ body = .next t) := by
  unfold linePre at h
  split at h
  · cases h
    exact .inl ⟨_, rfl⟩
  split at h
  · cases h
    exact .inl ⟨_, rfl⟩
  · exact .inr ⟨⟨by simp_all, by cases hp : s.pwr <;> simp_all⟩, h⟩

/-! ### Wakes -/

theorem wakePower_of_ne {l : Level} {s : State} (h : s.clk ≠ some l) : wakePower l s = some .normal := by
  simp [wakePower, isTransition, h]

/-- A clock edge on a powered sensor leaves its power and its selection as they were. -/
theorem wake_of_normal {l : Level} {s : State} (h : s.sensorPower = some .normal) :
    wakePower l s = some .normal ∧ wakeArmed l s = s.armed := by
  simp [wakePower, wakeArmed, h]

/-! ### Polls -/

theorem pollStep_high {s : State} (c : Instr) (h : s.peek 0 = .high) :
    pollStep c s = { s.skip 1 with trace := s.trace ++ [.sample .high], phase := .run c .wait } := by
  simp [pollStep, dataSample, h, record]

theorem pollStep_low {s : State} (c : Instr) (h : s.peek 0 = .low) :
    pollStep c s =
      { s.skip 1 with trace := s.trace ++ [.sample .low], shreg := 0, phase := .run c (.data 0 .hi) } := by
  simp [pollStep, dataSample, h, record]

/-! ### Pulses -/

/-- A whole data pulse: three steps, one sample (40_link R87). -/
theorem run_dataPulse {s : State} {c : Instr} {i : Fin 24} (h : s.phase = .run c (.data i .hi)) :
    run 3 s = .next { s.skip 1 with
      clk := some .low
      shreg := shiftBit s.shreg (s.peek 0)
      sbit := s.peek 0
      trace := s.trace ++ [.clk .high, .sample (s.peek 0), .clk .low]
      armed := (clkSet .low (clkSet .high s)).armed
      sensorPower := some .normal
      phase := .run c (afterPulse i s.sel) } := by
  have h1 : step s = .next (dataHigh c i s) := by rw [step_run h]; rfl
  have h2 : step (dataHigh c i s) = .next (dataBit c i (dataHigh c i s)) := by rw [step_run (c := c) (p := .sample i) rfl]; rfl
  have h3 : step (dataBit c i (dataHigh c i s)) = .next (dataLow c i (dataBit c i (dataHigh c i s))) := by
    rw [step_run (c := c) (p := .data i .lo) rfl]; rfl
  rw [run_succ_next h1, run_succ_next h2, run_succ_next h3, run_zero]
  simp [dataLow, dataBit, dataHigh, dataSample, clkSet, record, goto, State.peek, State.skip, wakePower, isTransition,
    wakeArmed, afterPulse, afterData]

/-- A whole trailing pulse: two steps, no sample (40_link R88). -/
theorem run_trailPulse {s : State} {c : Instr} {j : Nat} (h : s.phase = .run c (.trail j .hi)) :
    run 2 s = .next { s with
      clk := some .low
      trace := s.trace ++ [.clk .high, .clk .low]
      armed := (clkSet .low (clkSet .high s)).armed
      sensorPower := some .normal
      phase := .run c (if j < pTrail s.sel then .trail (j + 1) .hi else .fix) } := by
  have h1 : step s = .next (trailHigh c j s) := by rw [step_run h]; rfl
  have h2 : step (trailHigh c j s) = .next (trailLow c j (trailHigh c j s)) := by
    rw [step_run (c := c) (p := .trail j .lo) rfl]; rfl
  rw [run_succ_next h1, run_succ_next h2, run_zero]
  simp [trailLow, trailHigh, clkSet, record, goto, wakePower, isTransition, wakeArmed]

end Sys2Proof.Machine
end

