-- ==== Sys2Proof/Laws/PerInstr.lean ====
section
/-! SUPPORT. Facts about each command as syntax, one lemma a constructor. -/

namespace Sys2Proof.Laws

/-- The packet of a command has its format's number of words (30_encoding R68). -/
def PacketLength.Statement (i : Instr) : Prop := (encode i).length = i.op.format.words

/-- The header of a command's packet carries its opcode byte, and the header decoder's length for it is the packet's
(30_encoding R67, R68). -/
def HeaderOpcode.Statement (i : Instr) : Prop :=
  hdrOpc ((encode i).headD 0) = i.op.opcode ∧ packetLength ((encode i).headD 0) = i.op.format.words

/-- The packet length follows from the opcode byte. -/
theorem packetLength_of_hdrOpc {h : Word} {op : Op} (e : hdrOpc h = op.opcode) :
    hdrOpc h = op.opcode ∧ packetLength h = op.format.words := ⟨e, by simp [packetLength, e, opOf_opcode]⟩

theorem PacketLength.init (sel : BitVec 2) : PacketLength.Statement (.init sel) := rfl
theorem PacketLength.powerDown : PacketLength.Statement .powerDown := rfl
theorem PacketLength.powerUp : PacketLength.Statement .powerUp := rfl
theorem PacketLength.isReady : PacketLength.Statement .isReady := rfl
theorem PacketLength.readRaw : PacketLength.Statement .readRaw := rfl
theorem PacketLength.readRawAvg (n : BitVec 16) : PacketLength.Statement (.readRawAvg n) := rfl
theorem PacketLength.setInputSelect (sel : BitVec 2) : PacketLength.Statement (.setInputSelect sel) := rfl
theorem PacketLength.filterUpdate (raw : Word) : PacketLength.Statement (.filterUpdate raw) := rfl
theorem PacketLength.readFiltered : PacketLength.Statement .readFiltered := rfl
theorem PacketLength.setFilterParams (dlow dhigh : Word) (amin amax : Byte) (db : Word) : PacketLength.Statement (.setFilterParams dlow dhigh amin amax db) := rfl
theorem PacketLength.tare : PacketLength.Statement .tare := rfl
theorem PacketLength.setScale (value : Word) : PacketLength.Statement (.setScale value) := rfl
theorem PacketLength.setOffset (value : Word) : PacketLength.Statement (.setOffset value) := rfl
theorem PacketLength.toUnits (count : Word) : PacketLength.Statement (.toUnits count) := rfl
theorem PacketLength.readRawUnits : PacketLength.Statement .readRawUnits := rfl
theorem PacketLength.readFilteredUnits : PacketLength.Statement .readFilteredUnits := rfl

theorem HeaderOpcode.init (sel : BitVec 2) : HeaderOpcode.Statement (.init sel) :=
    packetLength_of_hdrOpc (hdrOpc_select _ _)
theorem HeaderOpcode.powerDown : HeaderOpcode.Statement .powerDown := packetLength_of_hdrOpc (hdrOpc_plain _)
theorem HeaderOpcode.powerUp : HeaderOpcode.Statement .powerUp := packetLength_of_hdrOpc (hdrOpc_plain _)
theorem HeaderOpcode.isReady : HeaderOpcode.Statement .isReady := packetLength_of_hdrOpc (hdrOpc_plain _)
theorem HeaderOpcode.readRaw : HeaderOpcode.Statement .readRaw := packetLength_of_hdrOpc (hdrOpc_plain _)
theorem HeaderOpcode.readRawAvg (n : BitVec 16) : HeaderOpcode.Statement (.readRawAvg n) :=
    packetLength_of_hdrOpc (hdrOpc_count _ _)
theorem HeaderOpcode.setInputSelect (sel : BitVec 2) : HeaderOpcode.Statement (.setInputSelect sel) :=
    packetLength_of_hdrOpc (hdrOpc_select _ _)
theorem HeaderOpcode.filterUpdate (raw : Word) : HeaderOpcode.Statement (.filterUpdate raw) :=
    packetLength_of_hdrOpc (hdrOpc_plain _)
theorem HeaderOpcode.readFiltered : HeaderOpcode.Statement .readFiltered := packetLength_of_hdrOpc (hdrOpc_plain _)
theorem HeaderOpcode.setFilterParams (dlow dhigh : Word) (amin amax : Byte) (db : Word) : HeaderOpcode.Statement (.setFilterParams dlow dhigh amin amax db) :=
    packetLength_of_hdrOpc (hdrOpc_filter _ _ _)
theorem HeaderOpcode.tare : HeaderOpcode.Statement .tare := packetLength_of_hdrOpc (hdrOpc_plain _)
theorem HeaderOpcode.setScale (value : Word) : HeaderOpcode.Statement (.setScale value) :=
    packetLength_of_hdrOpc (hdrOpc_plain _)
theorem HeaderOpcode.setOffset (value : Word) : HeaderOpcode.Statement (.setOffset value) :=
    packetLength_of_hdrOpc (hdrOpc_plain _)
theorem HeaderOpcode.toUnits (count : Word) : HeaderOpcode.Statement (.toUnits count) :=
    packetLength_of_hdrOpc (hdrOpc_plain _)
theorem HeaderOpcode.readRawUnits : HeaderOpcode.Statement .readRawUnits := packetLength_of_hdrOpc (hdrOpc_plain _)
theorem HeaderOpcode.readFilteredUnits : HeaderOpcode.Statement .readFilteredUnits :=
    packetLength_of_hdrOpc (hdrOpc_plain _)

/-- `HeaderOpcode` for every command. -/
theorem headerOpcode : ∀ i, HeaderOpcode.Statement i
  | .init sel => HeaderOpcode.init sel
  | .powerDown => HeaderOpcode.powerDown
  | .powerUp => HeaderOpcode.powerUp
  | .isReady => HeaderOpcode.isReady
  | .readRaw => HeaderOpcode.readRaw
  | .readRawAvg n => HeaderOpcode.readRawAvg n
  | .setInputSelect sel => HeaderOpcode.setInputSelect sel
  | .filterUpdate raw => HeaderOpcode.filterUpdate raw
  | .readFiltered => HeaderOpcode.readFiltered
  | .setFilterParams dlow dhigh amin amax db => HeaderOpcode.setFilterParams dlow dhigh amin amax db
  | .tare => HeaderOpcode.tare
  | .setScale value => HeaderOpcode.setScale value
  | .setOffset value => HeaderOpcode.setOffset value
  | .toUnits count => HeaderOpcode.toUnits count
  | .readRawUnits => HeaderOpcode.readRawUnits
  | .readFilteredUnits => HeaderOpcode.readFilteredUnits

/-- Every command's packet is a whole packet (30_encoding R68): the head has its opcode, and the length is its format's. -/
theorem wholePacket_encode (i : Instr) : wholePacket (encode i) = true := by
  have hl : PacketLength.Statement i := by cases i <;> rfl
  have ho := (headerOpcode i).1
  cases e : encode i with
  | nil => cases i <;> cases e
  | cons h args =>
    rw [e] at ho
    rw [PacketLength.Statement, e] at hl
    exact (wholePacket_iff (by rw [show hdrOpc h = _ from ho, opOf_opcode])).2 hl

end Sys2Proof.Laws
end

