-- ==== Sys2Proof/Laws/Values.lean ====
section
/-! SUPPORT. The value primitives, the raw code, the coefficient and the unit conversion as integers. -/

namespace Sys2Proof.Machine

/-! ### Words and integers -/

theorem s32_range (w : Word) : -2147483648 ≤ s32 w ∧ s32 w < 2147483648 := by
  have := BitVec.toInt_lt (x := w)
  have := BitVec.le_toInt (x := w)
  simp [s32] at *
  omega

theorem u32_range (w : Word) : 0 ≤ u32 w ∧ u32 w < 2 ^ 32 := by
  have := w.isLt
  simp [u32]
  omega

theorem u8_range (b : Byte) : 0 ≤ u8 b ∧ u8 b ≤ 255 := by
  have := b.isLt
  simp [u8]
  omega

@[simp] theorem w32_s32 (w : Word) : w32 (s32 w) = w := by simp [w32, s32]

@[simp] theorem w32_u32 (w : Word) : w32 (u32 w) = w := by simp [w32, u32]

theorem s32_w32 {q : Int} (h1 : -2147483648 ≤ q) (h2 : q < 2147483648) : s32 (w32 q) = q := by
  simp only [s32, w32, BitVec.toInt_ofInt]
  rw [Int.bmod_eq_of_le] <;> norm_num <;> omega

theorem absZ_eq (v : Int) : absZ v = |v| := by simp [absZ]

theorem fdiv_of_pos {b : Int} (a : Int) (h : 0 < b) : fdiv a b = a / b := by
  rw [fdiv, Int.fdiv_eq_ediv_of_nonneg _ (le_of_lt h)]

/-! ### The raw code -/

/-- Inverting bit 23 of a 24-bit number adds 2^23 modulo 2^24. -/
theorem xor_two_pow_23 {x : Nat} (h : x < 2 ^ 24) : x ^^^ 2 ^ 23 = (x + 2 ^ 23) % 2 ^ 24 := by
  have h1 : (x ^^^ 2 ^ 23) % 2 ^ 23 = x % 2 ^ 23 := by rw [Nat.xor_mod_two_pow]; simp
  have h2 : (x ^^^ 2 ^ 23) / 2 ^ 23 = (x / 2 ^ 23) ^^^ 1 := by
    rw [Nat.xor_div_two_pow, Nat.div_self (by positivity)]
  have h3 : x / 2 ^ 23 = 0 ∨ x / 2 ^ 23 = 1 := by omega
  generalize x ^^^ 2 ^ 23 = y at *
  rcases h3 with h3 | h3
  · have h2 : y / 2 ^ 23 = 1 := by rw [h2, h3]; rfl
    omega
  · have h2 : y / 2 ^ 23 = 0 := by rw [h2, h3]; rfl
    omega

theorem rawCode_toNat (v : BitVec 24) : (rawCode v).toNat = (v.toNat + 2 ^ 23) % 2 ^ 24 := by
  have := (v ^^^ signMask).isLt
  simp only [rawCode, BitVec.zeroExtend, BitVec.toNat_setWidth]
  rw [Nat.mod_eq_of_lt (by omega), BitVec.toNat_xor]
  exact xor_two_pow_23 v.isLt

theorem rawCode_lt (v : BitVec 24) : (rawCode v).toNat < 2 ^ 24 := by
  rw [rawCode_toNat]
  omega

/-- One shift moves every bit up by one and puts the sampled bit into bit 0. -/
theorem shiftBit_getLsbD (v : BitVec 24) (b : Level) (j : Nat) (hj : j < 24) :
    (shiftBit v b).getLsbD j = if j = 0 then (b == .high) else v.getLsbD (j - 1) := by
  rw [show (shiftBit v b).getLsbD j = (v.extractLsb' 0 23 ++ levelBit b).getLsbD j from rfl, BitVec.getLsbD_append]
  by_cases h : j = 0
  · subst h
    cases b <;> simp [levelBit]
  · rw [if_neg (by omega), if_neg h, BitVec.getLsbD_extractLsb']
    simp
    omega

/-! ### The coefficient, one lemma a branch -/

theorem alpha_low {d : Int} {s : State} (h : d ≤ u32 s.dlow) : alpha d s = u8 s.amin := by simp [alpha, h]

theorem alpha_high {d : Int} {s : State} (hl : u32 s.dlow < d) (h : u32 s.dhigh ≤ d) : alpha d s = u8 s.amax := by
  simp [alpha, not_le.2 hl, h]

theorem alpha_mid {d : Int} {s : State} (hl : u32 s.dlow < d) (h : d < u32 s.dhigh) :
    alpha d s = u8 s.amin + (d - u32 s.dlow) * (u8 s.amax - u8 s.amin) / (u32 s.dhigh - u32 s.dlow) := by
  simp [alpha, not_le.2 hl, not_le.2 h, fdiv_of_pos _ (show (0 : Int) < u32 s.dhigh - u32 s.dlow by omega)]

theorem emaStep_eq (d : Int) (s : State) : emaStep d s = d * alpha |d| s / 256 := by
  simp only [emaStep, asr, absZ_eq]
  rw [fdiv_of_pos _ (by norm_num)]
  norm_num

/-! ### The unit conversion -/

theorem unitsOutOfRange_iff (q : Int) : unitsOutOfRange q = true ↔ (q < -32768 ∨ 32767 < q) := by
  unfold unitsOutOfRange
  rw [Bool.or_eq_true, decide_eq_true_iff, decide_eq_true_iff, gt_iff_lt]

/-- Everything `ToUnitsP` can answer (43_calibration R106). -/
theorem toUnitsP_cases (count : Int) (s : State) :
    (s.scale = 0 ∧ toUnitsP count s = .error .divZero) ∨
    (s.scale ≠ 0 ∧ ∃ q, q = Int.tdiv (count - s32 s.offset) (s32 s.scale) ∧
      (((q < -32768 ∨ 32767 < q) ∧ toUnitsP count s = .error .unitsRange) ∨
       (-32768 ≤ q ∧ q ≤ 32767 ∧ toUnitsP count s = .ok q))) := by
  by_cases h : s.scale = 0
  · exact .inl ⟨h, if_pos h⟩
  · refine .inr ⟨h, _, rfl, ?_⟩
    simp only [toUnitsP, if_neg h, tdiv]
    by_cases hq : unitsOutOfRange (Int.tdiv (count - s32 s.offset) (s32 s.scale)) = true
    · exact .inl ⟨(unitsOutOfRange_iff _).1 hq, if_pos hq⟩
    · have hr := mt (unitsOutOfRange_iff _).2 hq
      exact .inr ⟨by omega, by omega, if_neg hq⟩

end Sys2Proof.Machine
end

