-- ==== Sys2Proof/Tests/Slice0.lean ====
section
/-! SUPPORT. Small tests: words and results written out in spec/95_test_vectors.md and spec/30_encoding.md, and a witness for the
hypotheses of every statement. -/

namespace Sys2Proof.Tests

open Sys2Proof.Machine

/-! ### Helpers -/

/-- Lines 5 and 6, tuning T of 95_test_vectors, `OFFSET = 8000`, `SCALE = 10`, no dead-band. -/
def P0 : Params := ⟨⟨5, 6⟩, 8000, 10, 1500, 15000, 32, 128, 0⟩

/-- Right after reset. -/
def cold : State := State.construct P0

/-- After INIT A128, between commands. -/
def up : State := { cold with link := true, clk := some .low, armed := some 0, sensorPower := some .normal }

/-- After INIT A128 and POWER_DOWN. -/
def down : State := { up with pwr := .powerDown, clk := some .high, sensorPower := some .powerDown }

/-- Halted by an unassigned opcode 0x00. -/
def dead : State := { cold with fault := 0x0003, phase := .halted }

/-- The 24 samples of a transaction that shifts in `v`, most significant first. -/
def bits (v : Nat) : List Level := (List.range 24).map (fun i => if v.testBit (23 - i) then .high else .low)

/-- After INIT, the environment settled on one ready poll and the samples of 0x000001. -/
def ready : State := { up with draws := .low :: bits 1 }

/-- `s` with these words at the port. -/
def sends (ws : List Word) (s : State) : State := { s with port := ws }

/-- `s` at the sign correction of the command `c` with `v` shifted in. -/
def atFix (c : Instr) (v : BitVec 24) (s : State) : State := { s with phase := .run c .fix, shreg := v }

/-- A field of the next state. -/
def get {α : Type} (f : State → α) (r : Result) : Option α :=
  match r with
  | .next s => some (f s)
  | .fault _ => none
  | .refused _ => none

/-- Whether the answer is a next state. -/
def runs (r : Result) : Bool := (get (fun _ => ()) r).isSome

theorem exists_of_runs {r : Result} (h : runs r = true) : ∃ t, r = .next t := by
  cases r with
  | next t => exact ⟨t, rfl⟩
  | fault e => cases h
  | refused e => cases h

/-! ### Well-formedness: each check refuses an ill-formed command (30_encoding R75) -/

theorem test_wf_init_refuses_select_3 : (Instr.init 3).wf = false := by decide
theorem test_wf_select_refuses_select_3 : (Instr.setInputSelect 3).wf = false := by decide
theorem test_wf_accepts_the_three_modes :
    (Instr.init 0).wf ∧ (Instr.init 1).wf ∧ (Instr.init 2).wf ∧ (Instr.setInputSelect 2).wf := by decide

/-! ### Decoding: words from 30_encoding R80 and 95_test_vectors 2.1 to 2.6 and section 3 -/

theorem test_decode_init : decode [0x00000101] = .ok (.init 1, []) ∧ decode [0x00000201] = .ok (.init 2, []) := by decide
theorem test_decode_powerDown : decode [0x00000002] = .ok (.powerDown, []) := by decide
theorem test_decode_powerUp : decode [0x00000003] = .ok (.powerUp, []) := by decide
theorem test_decode_isReady : decode [0x00000010] = .ok (.isReady, []) := by decide
theorem test_decode_readRaw : decode [0x00000011] = .ok (.readRaw, []) := by decide
theorem test_decode_readRawAvg : decode [0x00FFFF12] = .ok (.readRawAvg 65535, []) := by decide
theorem test_decode_setInputSelect : decode [0x00000113] = .ok (.setInputSelect 1, []) := by decide
theorem test_decode_filterUpdate : decode [0x00000020, 0xFFFFFFFB] = .ok (.filterUpdate (-5), []) := by decide
theorem test_decode_readFiltered : decode [0x00000021, 0x11] = .ok (.readFiltered, [0x11]) := by decide
theorem test_decode_setFilterParams :
    decode [0x00802022, 0x000005DC, 0x00003A98, 0x0000000A] = .ok (.setFilterParams 1500 15000 32 128 10, []) := by decide
theorem test_decode_tare : decode [0x00000030] = .ok (.tare, []) := by decide
theorem test_decode_setScale : decode [0x00000031, 0x0000000A] = .ok (.setScale 10, []) := by decide
theorem test_decode_setOffset : decode [0x00000032, 0x00001F40] = .ok (.setOffset 8000, []) := by decide
theorem test_decode_toUnits : decode [0x00000033, 0x00001FA4] = .ok (.toUnits 8100, []) := by decide
theorem test_decode_readRawUnits : decode [0x00000034] = .ok (.readRawUnits, []) := by decide
theorem test_decode_readFilteredUnits : decode [0x00000035] = .ok (.readFilteredUnits, []) := by decide

/-- The illegal headers of 95_test_vectors 2.1. -/
theorem test_decode_refuses_illegal_headers :
    decode [0x00000301] = .error .illegalSelect ∧ decode [0x00000411] = .error .reservedBits ∧
    decode [0x01000A12] = .error .reservedBits ∧ decode [0x01802022, 1, 2, 3] = .error .reservedBits ∧
    decode [0x00000000] = .error .unknownOpcode ∧ decode [0x000000FF] = .error .unknownOpcode ∧
    decode [0x00000014] = .error .unknownOpcode := by decide

/-- Rows of the opcode table, one word and with their operand words zero. -/
theorem test_decodeTableWord :
    decodeTableWord 32 0x00000011 = some .readRaw ∧ decodeTableWord 32 0x00000033 = some (.toUnits 0) ∧
    decodeTableWord 32 0x00000022 = some (.setFilterParams 0 0 0 0 0) ∧ decodeTableWord 32 0x00000014 = none := by decide

/-- The packet is run, and nothing of it is left at the port. -/
theorem test_withFetchWord :
    get (fun s => (s.scale, s.port)) (step (cold.withFetchWord 64 0x0000000500000031)) = some (5, []) := by decide

/-- A byte-wide bus, least significant byte first and most significant byte first (20_memory R46). -/
theorem test_decodeBytes :
    decodeBytes id [0x12, 0x0A, 0, 0] = .ok (.readRawAvg 10, []) ∧
    decodeBytes Fin.rev [0, 0, 0x0A, 0x12] = .ok (.readRawAvg 10, []) := by decide

/-! ### One step of each command (95_test_vectors 2.1 to 2.6) -/

theorem test_illegal_header_faults :
    get (fun s => (s.fault, s.port)) (step (sends [0x01802022, 7] cold)) = some (0x2203, [7]) := by decide

theorem test_init_wakes :
    get (fun s => (s.clk, s.pwr, s.sel, s.link, s.trace))
      (step { down with phase := .run (.init 1) .lines, trace := [.dirIn] }) =
    some (some .low, .normal, .gainB32, true, [.dirIn, .clk .low]) := by decide

theorem test_powerDown_before_init : get (·.fault) (step (sends [2] cold)) = some 0x0205 := by decide

theorem test_powerDown_holds :
    get (fun s => (s.clk, s.pwr, s.trace)) (run 2 (sends [2] up)) =
    some (some .high, .powerDown, [.clk .high, .holdPd]) := by decide

theorem test_powerUp_wakes :
    get (fun s => (s.clk, s.pwr, s.trace)) (step (sends [3] down)) = some (some .low, .normal, [.clk .low]) := by decide

theorem test_powerUp_when_up : get (fun s => (s.clk, s.trace)) (step (sends [3] up)) = some (some .low, []) := by decide

theorem test_isReady :
    get (fun s => (s.res, s.trace)) (step (sends [0x10] { up with draws := [.low] })) = some (some 1, [.sample .low]) ∧
    get (·.res) (step (sends [0x10] { up with draws := [.high] })) = some (some 0) := by decide

theorem test_isReady_powered_down :
    get (fun s => (s.fault, s.trace)) (step (sends [0x10] down)) = some (0x1007, []) := by decide

theorem test_readRaw_codes :
    get (·.res) (step (atFix .readRaw 0x000001 up)) = some (some 0x00800001) ∧
    get (·.res) (step (atFix .readRaw 0x800000 up)) = some (some 0) := by decide

theorem test_readRaw_shifts_msb_first : sampledCode 0 ready = 0x00800001 := by decide

theorem test_readRawAvg_truncates :
    get (fun s => (s.res, s.phase)) (step (atFix (.readRawAvg 3) 0x80000B { up with acc := 21, cnt := 1 })) =
    some (some 10, .idle) := by decide

theorem test_readRawAvg_zero_faults :
    get (·.fault) (step (sends [0x00000012] up)) = some 0x1209 ∧ get (·.fault) (step (sends [0x00000012] cold)) = some 0x1205 := by
  decide

theorem test_setInputSelect_keeps_res :
    get (fun s => (s.sel, s.res, s.armed)) (step (atFix (.setInputSelect 1) 5 { up with sel := .gainB32, res := some 7 })) =
    some (.gainB32, some 7, some 1) := by decide

theorem test_setInputSelect_3_faults : get (fun s => (s.fault, s.sel)) (step (sends [0x313] up)) = some (0x1303, .gainA128) := by
  decide

theorem test_filterUpdate_from_above :
    get (fun s => (s.ema, s.res)) (step (sends [0x20, 99900] { cold with initF := true, ema := 100000, stable := 100000 })) =
    some (99987, some 99987) := by decide

theorem test_filterUpdate_extreme :
    get (·.res) (step (sends [0x20, 0x80000000] { cold with initF := true, ema := 0x7FFFFFFF })) =
    some (some 0xFFFFFFFF) := by decide

theorem test_readFiltered_seeds :
    get (fun s => (s.res, s.ema, s.stable)) (step (atFix .readFiltered 0 up)) =
    some (some 0x00800000, 8388608, 8388608) := by decide

theorem test_setFilterParams_refuses_equal_thresholds :
    get (fun s => (s.fault, s.deadband)) (step (sends [0x00802022, 0x5DC, 0x5DC, 10] cold)) = some (0x220B, 0) := by decide

theorem test_setFilterParams_accepts_equal_coefficients :
    get (fun s => (s.dlow, s.dhigh, s.amin, s.amax)) (step (sends [0x00404022, 0, 1, 0] cold)) = some (0, 1, 64, 64) := by decide

theorem test_tare : get (fun s => (s.offset, s.res)) (step (atFix .tare 0 up)) = some (8388608, some 0x00800000) := by decide

theorem test_setScale_zero_accepted : get (fun s => (s.scale, s.fault)) (step (sends [0x31, 0] cold)) = some (0, 0) := by decide

theorem test_setOffset : get (·.offset) (step (sends [0x32, 0x1F40] cold)) = some 8000 := by decide

theorem test_toUnits_toward_zero :
    get (·.res) (step (sends [0x33, 7995] cold)) = some (some 0) ∧ get (·.res) (step (sends [0x33, 7985] cold)) = some (some 0xFFFFFFFF) := by
  decide

theorem test_toUnits_exact_difference :
    get (·.fault) (step (sends [0x33, 0x7FFFFFFF] { cold with offset := 0x80000000, scale := 1 })) = some 0x330D := by decide

theorem test_readRawUnits :
    get (·.res) (step (atFix .readRawUnits 0x64 { up with offset := 8388608, scale := 100 })) = some (some 1) ∧
    get (fun s => (s.fault, s.trace)) (step (sends [0x34] { up with scale := 0 })) = some (0x3409, []) := by decide

theorem test_readFilteredUnits_range_keeps_the_seed :
    get (fun s => (s.fault, s.ema, s.initF, s.res)) (step (atFix .readFilteredUnits 0 { up with offset := 0, scale := 1 })) =
    some (0x350D, 8388608, true, none) := by decide

theorem test_alpha : alpha 8250 cold = 80 ∧ alpha 10000 cold = 92 ∧ alpha 14999 cold = 127 ∧ alpha 15000 cold = 128 := by decide

theorem test_halted_ignores : step (sends [0x31, 5] dead) = .next (sends [5] dead) := rfl

/-! ### The host, reset and the adapter (70_reset R134, R139; 20_memory R43, R49 to R51) -/

theorem test_write_takes_whole_packets_only :
    hostWrite [0x31, 5] cold = .next (sends [0x31, 5] cold) ∧ hostWrite [0x31] cold = .refused .partialPacket ∧
    hostWrite [0x11, 5] cold = .refused .partialPacket ∧ hostWrite [] cold = .refused .partialPacket ∧
    hostWrite [0x00] cold = .next (sends [0x00] cold) ∧ hostWrite [0x00, 5] cold = .refused .partialPacket :=
  ⟨rfl, rfl, rfl, rfl, rfl, rfl⟩

/-- A packet written while HALTED is ignored, so a reset right behind it leaves nothing to run. -/
theorem test_write_while_halted_is_ignored :
    hostWrite [0x31, 5] dead = .next dead ∧ get (·.port) (platformReset P0 dead) = some [] := ⟨rfl, rfl⟩

theorem test_reset_refuses_one_line_for_both : platformReset { P0 with lines := ⟨5, 5⟩ } up = .refused .badConstruction := rfl

theorem test_adapter_operations :
    pinTrace ⟨5, 6⟩ [.dirIn, .clk .low, .sample .high, .clk .high, .holdPd] =
    [.setDirection 6 .input, .setLow 5, .read 6 .high, .setHigh 5] := by decide

/-! ### States that meet the hypotheses of the statements -/

theorem inv_cold : Inv cold :=
  ⟨⟨by decide, by decide⟩, .inr ⟨by decide, rfl⟩, trivial, ⟨rfl, rfl, fun _ => rfl⟩, rfl, .inl rfl, .inr ⟨[], nofun, rfl⟩⟩

theorem inv_up : Inv up :=
  ⟨⟨by decide, by decide⟩, .inr ⟨by decide, rfl⟩, trivial, ⟨rfl, rfl, fun _ => rfl⟩, rfl, .inr rfl, .inr ⟨[], nofun, rfl⟩⟩

theorem inv_down : Inv down :=
  ⟨⟨by decide, by decide⟩, .inr ⟨by decide, rfl⟩, trivial, ⟨rfl, rfl, fun h => by cases h⟩, rfl, .inr rfl,
   .inr ⟨[], nofun, rfl⟩⟩

/-- A whole packet written to an IDLE block with an empty port keeps the invariant. -/
theorem inv_sends {s : State} {ws : List Word} (h : Inv s) (hw : wholePacket ws = true) : Inv (sends ws s) :=
  ⟨h.tuning, h.fault, h.phase, h.lines, h.sensor, h.armed, .inr ⟨[ws], by simpa using hw, by simp [sends]⟩⟩

theorem ready_readyAfter : readyAfter 0 ready := ⟨nofun, by decide⟩

theorem up_linkUp : linkUp up ∧ linkUp ready := ⟨⟨rfl, rfl⟩, rfl, rfl⟩

theorem reachable_run {k : Nat} {s t : State} (hs : Reachable s) (h : run k s = .next t) : Reachable t := by
  induction k generalizing s with
  | zero => cases h; exact hs
  | succ k ih =>
    simp only [run, Host.Core.run] at h
    split at h
    · rename_i u hu
      exact ih (.moved .step s u hs hu) h
    · cases h
    · cases h

theorem reachable_get {k : Nat} {s : State} {f : State → Bool} (hs : Reachable s) (h : get f (run k s) = some true) :
    ∃ t, Reachable t ∧ f t = true := by
  cases hr : run k s with
  | next t => rw [hr] at h; exact ⟨t, reachable_run hs hr, Option.some.inj h⟩
  | fault e => rw [hr] at h; cases h
  | refused e => rw [hr] at h; cases h

/-- Before INIT; after INIT A128 with the link up and the sensor powered; in PowerDown; a step that changes the clock line. -/
theorem witness_ClockLineRestsWherePowerModeSays :
    (Inv cold ∧ cold.link = false) ∧ (Inv up ∧ up.phase = .idle ∧ up.link = true ∧ up.pwr = .normal) ∧
    (Inv down ∧ down.pwr = .powerDown) ∧
    (Inv (sends [3] down) ∧ ∃ t, step (sends [3] down) = .next t ∧ t.clk ≠ (sends [3] down).clk) :=
  ⟨⟨inv_cold, rfl⟩, ⟨inv_up, rfl, rfl, rfl⟩, ⟨inv_down, rfl⟩, inv_sends inv_down rfl, _, rfl, by decide⟩

/-- Runs from a launch come to rest after a whole INIT A128, and in PowerDown after INIT A128 and POWER_DOWN. -/
theorem test_launches_reach_both_power_modes :
    (∃ t, Reachable t ∧ (decide (t.phase = .idle) && t.link && decide (t.pwr = .normal)) = true) ∧
    (∃ t, Reachable t ∧ decide (t.pwr = .powerDown) = true) :=
  ⟨reachable_get (k := 76) (.launched P0 [[1]] (.low :: bits 0) rfl (by decide)) (by decide),
   reachable_get (k := 78) (.launched P0 [[1], [2]] (.low :: bits 0) rfl (by decide)) (by decide)⟩

/-! ### Witnesses: encoding -/

theorem witness_DecodeOfEncodeIsTheCommand : (Instr.setInputSelect 2).wf = true ∧ (Instr.readRawAvg 65535).wf = true := by decide

theorem witness_DecodeAcceptsOnlyEncodings : decode [0x00FFFF12, 7] = .ok (.readRawAvg 65535, [7]) := by decide

/-- Both sides of the equivalence, and an accepted header at the last legal mode. -/
theorem witness_HeaderDecoderFollowsTheMap :
    headerIllegal (0x00000301 : Word).toNat ∧ (∃ e, decodeHeader 0x00000301 = .error e) ∧
    decodeHeader 0x00000201 = .ok .init := ⟨.inr rfl, ⟨.illegalSelect, by decide⟩, by decide⟩

/-- One illegal header of each kind. -/
theorem witness_IllegalHeaderFaultsOnArrival :
    (sends [0x01802022, 7] cold).phase = .idle ∧ (sends [0x01802022, 7] cold).port = 0x01802022 :: [7] ∧
    headerIllegal (0x01802022 : Word).toNat ∧ headerIllegal (0x00000313 : Word).toNat ∧
    headerIllegal (0x00000411 : Word).toNat ∧ headerIllegal (0x00000000 : Word).toNat :=
  ⟨rfl, rfl, (by decide : 0x01802022 / 2 ^ 24 ≠ 0), .inr rfl, (by decide : 0x411 / 2 ^ 8 ≠ 0), trivial⟩

/-- Three of the four words of SET_FILTER_PARAMS, and one of the two of FILTER_UPDATE. -/
theorem witness_IncompletePacketWaits :
    (sends [0x00802022, 1500, 15000] cold).phase = .idle ∧ decodeHeader 0x00802022 = .ok .setFilterParams ∧
    [(1500 : Word), 15000].length + 1 < Op.setFilterParams.format.words ∧
    decodeHeader 0x00000020 = .ok .filterUpdate ∧ ([] : List Word).length + 1 < Op.filterUpdate.format.words := by decide

theorem witness_EveryByteOrderCarriesEveryPacket :
    Function.Injective (Fin.rev : Fin 4 → Fin 4) ∧ Function.Injective (id : Fin 4 → Fin 4) ∧ (Instr.init 2).wf = true :=
  ⟨fun _ _ h => Fin.rev_injective h, fun _ _ h => h, rfl⟩

/-! ### Witnesses: the step, faults, reset -/

theorem witness_StepRunsTheDecodedCommand :
    (sends (encode (.init 2) ++ [7]) cold).phase = .idle ∧ (sends (encode (.init 2) ++ [7]) cold).port = encode (.init 2) ++ [7] ∧
    (Instr.init 2).wf = true ∧ (atFix .readRaw 0 up).phase = .run .readRaw .fix ∧ dead.phase = .halted := by decide

theorem witness_FaultsArePrecise :
    (∃ t, exec (.toUnits 1) { cold with scale := 0 } = .next t ∧ t.phase = .halted) ∧
    inTransaction .readRawUnits { up with offset := 0, scale := 1 } ∧
    (∃ t, advance .readRawUnits .fix { up with offset := 0, scale := 1 } = .next t ∧ t.phase = .halted) ∧
    inTransaction .readFilteredUnits { up with offset := 0, scale := 1 } ∧
    (∃ t, advance .readFilteredUnits .fix { up with offset := 0, scale := 1 } = .next t ∧ t.phase = .halted) :=
  ⟨⟨_, rfl, rfl⟩, (by decide : (1 : Word) ≠ 0), ⟨_, rfl, rfl⟩, (by decide : (1 : Word) ≠ 0), ⟨_, rfl, rfl⟩⟩

theorem witness_HaltedBlockIgnoresEveryWord :
    dead.phase = .halted ∧ run 1 (sends [5] dead) = .next dead ∧ (∀ P, Move.write [7] ≠ .reset P) ∧
    ∃ t, applyMove (.write [7]) dead = .next t := ⟨rfl, rfl, nofun, _, rfl⟩

/-- The closest legal thresholds and equal coefficients, and each invariant broken by the least. -/
theorem witness_PlatformResetConstructsOrRefuses :
    (∃ P : Params, P.lines.clockOut ≠ P.lines.dataLine ∧ P.dhigh.toNat = P.dlow.toNat + 1 ∧ P.dlow.toNat < P.dhigh.toNat ∧ P.amin.toNat ≤ P.amax.toNat ∧
      P.amin = P.amax) ∧
    (∃ P : Params, P.dhigh.toNat ≤ P.dlow.toNat ∧ P.dhigh = P.dlow) ∧ (∃ P : Params, P.amax.toNat < P.amin.toNat) ∧
    (∃ P : Params, P.lines.clockOut = P.lines.dataLine) :=
  ⟨⟨⟨⟨0, 1⟩, 0, 1, 0, 1, 9, 9, 0⟩, by decide⟩, ⟨⟨⟨0, 1⟩, 0, 1, 5, 5, 9, 9, 0⟩, by decide⟩,
   ⟨⟨⟨0, 1⟩, 0, 1, 0, 1, 9, 8, 0⟩, by decide⟩, ⟨⟨⟨7, 7⟩, 0, 1, 0, 1, 9, 9, 0⟩, rfl⟩⟩

theorem witness_InvariantHoldsAtReset :
    P0.valid = true ∧ (⟨⟨0, 1⟩, 0, 0, 0, 1, 0, 0, 0⟩ : Params).valid = true ∧
    ∀ p ∈ [[0x01], [0x31, 5], [(0x00 : Word)]], wholePacket p = true := by decide

theorem witness_EveryStepKeepsTheInvariant : ∃ t, Inv (sends [0x11] up) ∧ step (sends [0x11] up) = .next t :=
  ⟨_, inv_sends inv_up rfl, rfl⟩

theorem witness_EveryMoveKeepsTheInvariant :
    (∃ t, Move.write [7] ≠ .step ∧ Inv cold ∧ applyMove (.write [7]) cold = .next t) ∧
    (∃ t, Move.reset P0 ≠ .step ∧ Inv up ∧ applyMove (.reset P0) up = .next t) :=
  ⟨⟨_, nofun, inv_cold, rfl⟩, ⟨_, nofun, inv_up, rfl⟩⟩

theorem witness_EveryReachableStateSteps : Reachable (launch P0 [[0x01]] []) ∧ Inv up ∧ Inv dead :=
  ⟨.launched P0 [[0x01]] [] rfl (by decide), inv_up,
   inv_cold.tuning, .inl ⟨rfl, 0, .illegalCmd, by decide⟩, trivial, inv_cold.lines, rfl, .inl rfl, .inl rfl⟩

theorem witness_TuningInvariantsHoldAtEveryStep :
    P0.valid = true ∧ ∃ t, tuningOk cold ∧ step (sends [0x00404022, 0, 1, 0] cold) = .next t ∧ t.dhigh = 1 :=
  ⟨rfl, _, inv_cold.tuning, rfl, rfl⟩

theorem witness_StatusIsHaltedExactlyWhenFaulted : Inv up ∧ Inv (raiseFault 0x11 .linkDown cold) :=
  ⟨inv_up, ⟨inv_cold.tuning, .inl ⟨rfl, _, _, rfl⟩, trivial, inv_cold.lines, rfl, .inl rfl, .inl rfl⟩⟩

theorem witness_RegistersChangeOnlyByTheirWriters :
    (∃ t, Inv (sends [0x31, 5] cold) ∧ step (sends [0x31, 5] cold) = .next t ∧ ¬ Reg.scale.same (sends [0x31, 5] cold) t) ∧
    (∃ t, Inv (sends [0x00] cold) ∧ step (sends [0x00] cold) = .next t ∧ (sends [0x00] cold).fault ≠ t.fault) :=
  ⟨⟨_, inv_sends inv_cold rfl, rfl, (by decide : (10 : Word) ≠ 5)⟩, ⟨_, inv_sends inv_cold rfl, rfl, by decide⟩⟩

theorem witness_AStepMakesAtMostOneLineEvent : ∃ t, step (sends [0x01] cold) = .next t ∧ t.trace = [.dirIn] := ⟨_, rfl, rfl⟩

theorem witness_NoLineEventBeforeInit :
    ∃ t, Inv (sends [0x01] cold) ∧ (sends [0x01] cold).link = false ∧ step (sends [0x01] cold) = .next t ∧
      t.trace ≠ (sends [0x01] cold).trace ∧ ∃ u, platformReset P0 up = .next u := ⟨_, inv_sends inv_cold rfl, rfl, rfl, by decide, _, rfl⟩

/-- Each flag set, and a move that is no reset. -/
theorem witness_FlagsAreClearedOnlyByReset :
    (∃ t, applyMove .step (sends [0x11] { up with initF := true }) = .next t) ∧ up.link = true ∧ dead.fv = true ∧
    (∃ t, applyMove .step dead = .next t) ∧ ∀ P, Move.step ≠ .reset P := ⟨⟨_, rfl⟩, rfl, by decide, ⟨_, rfl⟩, nofun⟩

theorem witness_TraceAndGhostsAreNeverRead :
    forgetObserved up = forgetObserved { up with trace := [.dirIn], armed := some 1 } ∧
    up ≠ { up with trace := [.dirIn], armed := some 1 } := by decide

theorem witness_ScratchIsNeverReadBeforeWritten :
    forgetScratch up = forgetScratch { up with shreg := 1, sbit := .high, acc := 2, cnt := 3 } ∧
    up ≠ { up with shreg := 1, sbit := .high, acc := 2, cnt := 3 } := by decide

theorem witness_UnseededFilterIsNeverRead :
    forgetUnseeded up = forgetUnseeded { up with ema := 1, stable := 2 } ∧ up ≠ { up with ema := 1, stable := 2 } := by decide

theorem witness_EndedRunsStayEnded : completed cold ∧ faulted dead := ⟨⟨rfl, rfl, rfl⟩, rfl, rfl⟩

/-! ### Witnesses: link and transaction -/

/-- No poll of 1, and one poll of 1 before the 0. -/
theorem witness_WaitReadyPollsWithoutBound :
    (∀ j, j < 0 → (beginTransaction .readRaw ready).peek j = .high) ∧ (beginTransaction .readRaw ready).peek 0 = .low ∧
    (∀ j, j < 1 → State.peek { up with draws := [.high, .low] } j = .high) ∧
    State.peek { up with draws := [.high, .low] } 1 = .low ∧
    (beginTransaction .readRaw ready).phase = .run .readRaw .wait := by decide

theorem witness_TransactionRunsToItsCode :
    readyAfter 0 ready ∧ readyAfter 1 { up with draws := .high :: .low :: bits 0x800000 } :=
  ⟨ready_readyAfter, by decide, by decide⟩

theorem witness_RawCodeIsOffsetBinary : (0x800000 : BitVec 24).toInt < (0x7FFFFF : BitVec 24).toInt := by decide

theorem witness_FirstSampleIsTheTopBit : (bits 0x800001).length = 24 ∧ 0 < 24 ∧ 23 < 24 := by decide

theorem witness_SelectionTakesEffectOneTransactionLate :
    (∃ t, step (atFix (.setInputSelect 1) 5 { up with sel := .gainB32 }) = .next t ∧ t.armed = some 1 ∧ up.armed = some 0) ∧
    (∃ t, step (sends [3] down) = .next t ∧ t.armed ≠ (sends [3] down).armed ∧ t.armed = none) ∧
    readyAfter 0 ready ∧ ready.sensorPower = some .normal ∧
    (∃ t, run 0 (beginTransaction .readRaw ready) = .next t) ∧
    (∃ t, run (transactionSteps 0 ready.sel) (beginTransaction .readRaw ready) = .next t) :=
  ⟨⟨_, rfl, rfl, rfl⟩, ⟨_, rfl, by decide, rfl⟩, ready_readyAfter, rfl, ⟨_, rfl⟩, exists_of_runs (by decide)⟩

theorem witness_TransactionTakesAtLeastItsEdges : (bits 1).length = 24 ∧ InputSelect.gainB32 ≠ .gainA128 := by decide

/-- The hypotheses of `lineFaults`, of the completion, and of each result, for every line command. -/
theorem witness_IsReadySamplesOnce :
    cold.link = false ∧ (down.link = true ∧ down.pwr = .powerDown) ∧ linkUp up ∧
    State.peek { up with draws := [.low] } 0 = .low ∧ State.peek { up with draws := [.high] } 0 = .high :=
  ⟨rfl, ⟨rfl, rfl⟩, up_linkUp.1, by decide, by decide⟩

/-! ### Witnesses: acquisition -/

theorem witness_ReadRawReturnsTheCode :
    cold.link = false ∧ (down.link = true ∧ down.pwr = .powerDown) ∧ linkUp ready ∧ readyAfter 0 ready :=
  ⟨rfl, ⟨rfl, rfl⟩, up_linkUp.2, ready_readyAfter⟩

/-- The least count, and two transactions, the second after one poll of 1. -/
theorem witness_ReadRawAvgReturnsTheMean :
    linkUp up ∧ (1 : BitVec 16) ≠ 0 ∧ ([0] : List Nat).length = (1 : BitVec 16).toNat ∧ readyAll [0] ready ∧
    ([0, 1] : List Nat).length = (2 : BitVec 16).toNat ∧
    readyAll [0, 1] { up with draws := .low :: bits 1 ++ [.high, .low] } :=
  ⟨up_linkUp.1, by decide, rfl, ⟨ready_readyAfter, trivial⟩, rfl, ⟨nofun, by decide⟩, ⟨by decide, by decide⟩, trivial⟩

theorem witness_SetInputSelectStoresAndFlushes :
    (2 : BitVec 2) ≠ 3 ∧ InputSelect.gainA64.code = (2 : BitVec 2) ∧ linkUp ready ∧ readyAfter 0 ready ∧
    cold.link = false ∧ (down.link = true ∧ down.pwr = .powerDown) :=
  ⟨by decide, rfl, up_linkUp.2, ready_readyAfter, rfl, rfl, rfl⟩

/-! ### Witnesses: filter -/

/-- The thresholds themselves and the values beside them. -/
theorem witness_AlphaIsPiecewiseLinear :
    tuningOk cold ∧ (1500 : Int) ≤ u32 cold.dlow ∧ u32 cold.dhigh ≤ 15000 ∧ u32 cold.dlow < 1501 ∧ 14999 < u32 cold.dhigh ∧
    u8 cold.amin < u8 cold.amax ∧ (1501 : Int) ≤ 14999 := ⟨inv_cold.tuning, by decide⟩

/-- Source S10: the step of 12 against dead-bands of 11 (more than it) and 12 (not more). -/
theorem witness_FilterUpdateFollowsItsSteps :
    cold.initF = false ∧ ({ cold with initF := true } : State).initF = true ∧
    nextEma (s32 100100) { cold with ema := 100000 } = 100012 ∧
    (11 : Int) < absZ (100012 - 100000) ∧ absZ (100012 - 100000) ≤ 12 := by decide

theorem witness_EmaStaysBetweenOldAndInput :
    0 ≤ s32 0x7FFFFFFF - s32 ({ cold with ema := 0x80000000 } : State).ema ∧
    s32 0x80000000 - s32 ({ cold with ema := 0x7FFFFFFF } : State).ema < 0 := by decide

/-- 95_test_vectors 2.4: from above by one; from below by eight (the product is 256) and by seven (224); coefficient 0; equal. -/
theorem witness_ConstantInputMovesEmaTowardIt :
    ({ cold with initF := true, ema := 100001 } : State).initF = true ∧
    (s32 100000 < s32 100001 ∧ 1 ≤ alpha 1 { cold with initF := true, ema := 100001 }) ∧
    (s32 100000 < s32 100008 ∧ 256 ≤ (100008 - 100000) * alpha 8 { cold with initF := true, ema := 100000 }) ∧
    (s32 100000 < s32 100007 ∧ (100007 - 100000) * alpha 7 { cold with initF := true, ema := 100000 } < 256) ∧
    alpha 5 { cold with initF := true, amin := 0, amax := 0 } = 0 ∧
    ({ cold with initF := true, ema := 7 } : State).ema = 7 := by decide

theorem witness_EmaReachesInputFromAbove :
    ({ cold with initF := true, ema := 100007 } : State).initF = true ∧ tuningOk { cold with initF := true, ema := 100007 } ∧
    1 ≤ u8 ({ cold with initF := true, ema := 100007 } : State).amin ∧
    s32 100000 ≤ s32 ({ cold with initF := true, ema := 100007 } : State).ema :=
  ⟨rfl, inv_cold.tuning, by decide, by decide⟩

theorem witness_ReadFilteredUpdatesWithAFreshCode : linkUp ready ∧ readyAfter 0 ready ∧ cold.link = false ∧
    (down.link = true ∧ down.pwr = .powerDown) := ⟨up_linkUp.2, ready_readyAfter, rfl, rfl, rfl⟩

/-- Equal thresholds, coefficients one too far apart, and the closest legal ones. -/
theorem witness_SetFilterParamsWritesAllOrFaults :
    (1500 : Word).toNat ≤ (1500 : Word).toNat ∧ (0x20 : Byte).toNat < (0x21 : Byte).toNat ∧
    ((0 : Word).toNat < (1 : Word).toNat ∧ (64 : Byte).toNat ≤ (64 : Byte).toNat) := by decide

/-! ### Witnesses: calibration -/

theorem witness_TareStoresTheFilteredReading : linkUp ready ∧ readyAfter 0 ready ∧ cold.link = false ∧
    (down.link = true ∧ down.pwr = .powerDown) := ⟨up_linkUp.2, ready_readyAfter, rfl, rfl, rfl⟩

/-- 95_test_vectors 2.5: the quotients 32767 and 32768, -32768 and -32769, and a scale of 0. -/
theorem witness_ToUnitsDividesOrFaults :
    ({ cold with scale := 0 } : State).scale = 0 ∧ ({ cold with scale := 1 } : State).scale ≠ 0 ∧
    (32767 : Int) < Int.tdiv ((32768 : Word).toInt - (0 : Word).toInt) (1 : Word).toInt ∧
    Int.tdiv ((32767 : Word).toInt - (0 : Word).toInt) (1 : Word).toInt ≤ 32767 ∧
    -32768 ≤ Int.tdiv ((0xFFFF8000 : Word).toInt - (0 : Word).toInt) (1 : Word).toInt ∧
    Int.tdiv ((0xFFFF7FFF : Word).toInt - (0 : Word).toInt) (1 : Word).toInt < -32768 := by decide

/-- With the code 8388609 of `ready`: out of range against offset 0 and scale 1, in range against the offset 8388608. -/
theorem witness_ReadRawUnitsConvertsAFreshCode :
    linkUp ready ∧ readyAfter 0 ready ∧ ({ ready with scale := 0 } : State).scale = 0 ∧ ready.scale ≠ 0 ∧
    cold.link = false ∧ (down.link = true ∧ down.pwr = .powerDown) ∧
    32767 < Int.tdiv (u32 (sampledCode 0 ready) - 0) 1 ∧ Int.tdiv (u32 (sampledCode 0 ready) - 8388608) 1 = 1 :=
  ⟨up_linkUp.2, ready_readyAfter, rfl, by decide, rfl, ⟨rfl, rfl⟩, by decide, by decide⟩

theorem witness_ReadFilteredUnitsConvertsTheFilteredReading :
    linkUp ready ∧ readyAfter 0 ready ∧ ({ ready with scale := 0 } : State).scale = 0 ∧ ready.scale ≠ 0 ∧
    cold.link = false ∧ (down.link = true ∧ down.pwr = .powerDown) ∧
    32767 < Int.tdiv ((filterUpdateP (u32 (sampledCode 0 ready)) ready).1 - 0) 1 ∧
    Int.tdiv ((filterUpdateP (u32 (sampledCode 0 ready)) ready).1 - 8388608) 1 = 1 :=
  ⟨up_linkUp.2, ready_readyAfter, rfl, by decide, rfl, ⟨rfl, rfl⟩, by decide, by decide⟩

/-- 95_test_vectors 2.5: X = 19 and W = 10 give scale 1 and an error of 9, the largest; X = 100 gives no error. -/
theorem witness_CalibrationRoundTripError :
    (10 : Int) ≠ 0 ∧ ({ cold with scale := 1 } : State).scale ≠ 0 ∧ s32 1 = Int.tdiv (8019 - s32 cold.offset) 10 ∧
    Int.tdiv (8019 - s32 cold.offset - s32 1 * 10) (s32 1) = 9 ∧
    s32 cold.scale = Int.tdiv (8100 - s32 cold.offset) 10 ∧ (10 : Int) ∣ 8100 - s32 cold.offset := by decide

/-! ### Witnesses: control and the host port -/

theorem witness_InitConfiguresAndFlushes : InputSelect.gainA64.code = (2 : BitVec 2) ∧ readyAfter 0 ready :=
  ⟨rfl, ready_readyAfter⟩

theorem witness_PowerDownHoldsTheClockHigh :
    cold.link = false ∧ (down.link = true ∧ down.pwr = .powerDown) ∧ (up.link = true ∧ up.pwr = .normal) := by decide

theorem witness_PowerUpMakesOneTransition :
    cold.link = false ∧ (up.link = true ∧ up.pwr = .normal) ∧ (down.link = true ∧ down.pwr = .powerDown) := by decide

theorem witness_WakeForgetsTheSelection :
    ∃ t, Inv down ∧ down.phase = .idle ∧ down.pwr = .powerDown ∧ exec .powerUp down = .next t := ⟨_, inv_down, rfl, rfl, rfl⟩

theorem witness_HostReadsThreeRegisters : cold.res = none ∧ ({ cold with res := some 7 } : State).res = some 7 := by decide

theorem witness_HostWritesOnlyWhileNotBusy :
    cold.phase = .idle ∧ wholePacket [0x20, 5] = true ∧ wholePacket [0x20] = false ∧
    decodeHeader 0x00802022 = .ok .setFilterParams ∧ dead.phase = .halted ∧ (atFix .readRaw 0 up).phase = .run .readRaw .fix := by decide

/-! ### Witnesses: whole runs -/

/-- Each of the three ends: an empty launch completes, a halted block has faulted, and READ_RAW on a line that stays high hangs,
without the premise; on a line that stays low the premise holds. -/
theorem witness_EveryRunCompletesFaultsOrHangs :
    Inv cold ∧ (∃ t, runUnder (fun _ => .low) 0 cold = .next t ∧ completed t) ∧
    (∃ k t, runUnder (fun _ => .low) k (sends [0x00] cold) = .next t ∧ faulted t) ∧
    (∃ t, runUnder (fun _ => .high) 1 (sends [0x11] up) = .next t ∧ t.phase = .run .readRaw .wait) ∧
    readyEventually (fun _ => .low) up ∧
    (cold.phase = .idle ∧ (sends [0x31, 5] cold).port = [[0x31, 5]].flatten ∧ wholePacket [0x31, 5] = true ∧
      ∃ t, runUnder (fun _ => .low) 1 (sends [0x31, 5] cold) = .next t ∧ completed t) :=
  ⟨inv_cold, ⟨_, rfl, rfl, rfl, rfl⟩, ⟨1, _, rfl, rfl, by decide⟩, ⟨_, rfl, rfl⟩, fun _ _ _ _ _ => ⟨0, rfl⟩,
   rfl, rfl, rfl, _, rfl, rfl, rfl, rfl⟩

end Sys2Proof.Tests
end

section
/-! SUPPORT. The scope and construction rules of 00_scope: the platform's reset by its parameters (R14), and the pulses and the
least time of a transaction (R13, R151). -/

namespace Sys2Proof

theorem Params.valid_iff (P : Params) :
    P.valid = true ↔
      P.lines.clockOut ≠ P.lines.dataLine ∧ P.dlow.toNat < P.dhigh.toNat ∧ P.amin.toNat ≤ P.amax.toNat := by
  simp [Params.valid, and_assoc]

end Sys2Proof

namespace Sys2Proof.Machine

/-! ### The platform's reset -/

theorem platformReset_of_valid {P : Params} (s : State) (h : P.valid = true) :
    platformReset P s = .next (resetTo P s) := if_pos h

theorem platformReset_of_not_valid {P : Params} (s : State) (h : ¬ P.valid = true) :
    platformReset P s = .refused .badConstruction := if_neg h

/-- A reset sets every register to its construction value, `EMA` and `STABLE` with the others. -/
theorem resetTo_same_construct (r : Reg) (P : Params) (s : State) : r.same (resetTo P s) (State.construct P) := by
  cases r <;> exact rfl

/-- Settles O12: `Params.valid` is the first clause's premise, and its failure is the second's. -/
theorem platformResetConstructsOrRefuses : Obligations.PlatformResetConstructsOrRefuses := by
  intro P s
  constructor
  · intro hlines hthresholds hcoefficients
    have hv : P.valid = true := P.valid_iff.mpr ⟨hlines, hthresholds, hcoefficients⟩
    exact ⟨resetTo P s, platformReset_of_valid s hv, rfl, rfl, rfl, rfl, fun r _ _ => resetTo_same_construct r P s⟩
  · intro hbroken
    have hv : ¬ P.valid = true := by
      rw [P.valid_iff]
      omega
    exact platformReset_of_not_valid s hv

/-! ### The pulses of a transaction -/

/-- A transaction makes one rising and one falling edge a bit and a trailing pulse (40_link R87, R88). -/
theorem count_clk_transactionTrace (l : Level) (k : Nat) (bs : List Level) (p : Nat) :
    (transactionTrace k bs p).count (.clk l) = bs.length + p := by
  have hdata : ∀ b, [LineEvent.clk .high, .sample b, .clk .low].count (.clk l) = 1 := by cases l <;> exact fun _ => rfl
  have htrail : [LineEvent.clk .high, .clk .low].count (.clk l) = 1 := by cases l <;> rfl
  simp [transactionTrace, List.count_replicate, List.count_flatMap, List.count_flatten, Function.comp_def, hdata, htrail]

/-- A transaction has one event a poll, three a bit and two a trailing pulse. -/
theorem length_transactionTrace (k : Nat) (bs : List Level) (p : Nat) :
    (transactionTrace k bs p).length = k + 1 + 3 * bs.length + 2 * p := by
  simp [transactionTrace, List.length_flatMap]
  omega

theorem holdPd_notMem_transactionTrace (k : Nat) (bs : List Level) (p : Nat) : .holdPd ∉ transactionTrace k bs p := by
  simp [transactionTrace]

/-! ### Time -/

/-- Without a power-down hold, a trace takes one settle a clock edge (20_memory R52). -/
theorem traceMinTime_eq_edges {es : List LineEvent} (h : .holdPd ∉ es) :
    traceMinTime es = (es.count (.clk .high) + es.count (.clk .low)) * Config.tSettle := by
  induction es with
  | nil => simp [traceMinTime]
  | cons e es ih =>
    obtain ⟨he, hes⟩ := not_or.mp (List.mem_cons.not.mp h)
    have hcons : traceMinTime (e :: es) = e.minTime + traceMinTime es := rfl
    rw [hcons, ih hes]
    cases e with
    | clk l => cases l <;> simp [LineEvent.minTime] <;> ring
    | sample d => simp [LineEvent.minTime]
    | dirIn => simp [LineEvent.minTime]
    | holdPd => exact absurd rfl he

theorem traceMinTime_transactionTrace (k : Nat) (bs : List Level) (p : Nat) :
    traceMinTime (transactionTrace k bs p) = 2 * (bs.length + p) * Config.tSettle := by
  rw [traceMinTime_eq_edges (holdPd_notMem_transactionTrace k bs p), count_clk_transactionTrace, count_clk_transactionTrace,
    ← Nat.two_mul]

/-- 70_reset R140: `T_SETTLE` is at least 1 us. -/
theorem tSettle_ge : 1000 ≤ Config.tSettle := Nat.le_add_right _ _

/-- At least 1 us an edge. -/
theorem edges_le_traceMinTime_transactionTrace (k : Nat) (bs : List Level) (p : Nat) :
    2 * (bs.length + p) * 1000 ≤ traceMinTime (transactionTrace k bs p) := by
  rw [traceMinTime_transactionTrace]
  exact Nat.mul_le_mul_left _ tSettle_ge

/-- 44_control R118: POWER_DOWN's clock edge and its hold take `T_PD`, whatever part of it the settle is. -/
theorem tPd_le_traceMinTime_powerDown : Config.tPd ≤ traceMinTime [.clk .high, .holdPd] := by
  simp only [traceMinTime, List.map_cons, List.map_nil, List.sum_cons, List.sum_nil, LineEvent.minTime]
  omega

theorem pTrail_of_ne_gainA128 {m : InputSelect} (h : m ≠ .gainA128) : pTrail m = 1 := by
  cases m with
  | gainA128 => exact absurd rfl h
  | gainB32 => rfl
  | gainA64 => rfl

/-- Settles O33: the transaction's edges are counted, and each takes at least one settle. -/
theorem transactionTakesAtLeastItsEdges : Obligations.TransactionTakesAtLeastItsEdges := by
  refine ⟨rfl, rfl, rfl, tPd_le_traceMinTime_powerDown, ?_⟩
  intro k bs m hbits es
  have hcount : ∀ l, es.count (.clk l) = 24 + pTrail m := fun l => hbits ▸ count_clk_transactionTrace l k bs (pTrail m)
  have htime : traceMinTime es = 2 * (24 + pTrail m) * Config.tSettle := hbits ▸ traceMinTime_transactionTrace k bs (pTrail m)
  have hleast : 2 * (24 + pTrail m) * 1000 ≤ traceMinTime es :=
    hbits ▸ edges_le_traceMinTime_transactionTrace k bs (pTrail m)
  have hlength : es.length = k + 1 + 3 * 24 + 2 * pTrail m := hbits ▸ length_transactionTrace k bs (pTrail m)
  refine ⟨?_, ?_, htime, by omega, ?_, hlength⟩
  · rintro rfl
    exact ⟨hcount .high, hcount .low⟩
  · intro hm
    have htrail : pTrail m = 1 := pTrail_of_ne_gainA128 (by rcases hm with rfl | rfl <;> decide)
    rw [htrail] at hcount
    exact ⟨hcount .high, hcount .low⟩
  · intro hm
    have htrail : pTrail m = 1 := pTrail_of_ne_gainA128 hm
    omega

end Sys2Proof.Machine
end

section
/-! SUPPORT. The state (10_state): what each kind of step can do, the invariant it keeps, and what it never reads. -/

namespace Sys2Proof

/-! ### A packet at the front of the port -/

theorem decode_cons_of_ok {h : Word} {op : Op} (e : decodeHeader h = .ok op) (ws : List Word) :
    decode (h :: ws) = assemble op h ws := by simp [decode, e]

/-- A well-formed command's packet decodes to it, whatever stands behind (30_encoding R79). -/
theorem decode_encode_append {i : Instr} (hwf : i.wf = true) (rest : List Word) :
    decode (encode i ++ rest) = .ok (i, rest) := by
  cases i with
  | init sel =>
    have hsel : sel ≠ 3 := by simpa [Instr.wf] using hwf
    exact (decode_cons_of_ok (decodeHeader_select .init sel rfl hsel) rest).trans (by simp [assemble, hdrSel_select])
  | setInputSelect sel =>
    have hsel : sel ≠ 3 := by simpa [Instr.wf] using hwf
    exact (decode_cons_of_ok (decodeHeader_select .setInputSelect sel rfl hsel) rest).trans
      (by simp [assemble, hdrSel_select])
  | readRawAvg n =>
    exact (decode_cons_of_ok (decodeHeader_count .readRawAvg n rfl) rest).trans (by simp [assemble, hdrN_count])
  | setFilterParams dlow dhigh amin amax db =>
    exact (decode_cons_of_ok (decodeHeader_filter .setFilterParams amin amax rfl) _).trans
      (by simp [assemble, hdrAmin_filter, hdrAmax_filter])
  | filterUpdate | setScale | setOffset | toUnits => exact decode_cons_of_ok (decodeHeader_plain _ (.inr rfl)) _
  | _ => exact decode_cons_of_ok (decodeHeader_plain _ (.inl rfl)) _

/-- What the decoder accepts is a command's packet and the words left over (30_encoding R78, R79). -/
theorem eq_encode_append_of_decode {ws rest : List Word} {i : Instr} (e : decode ws = .ok (i, rest)) :
    ws = encode i ++ rest := by
  cases ws with
  | nil => cases e
  | cons h args =>
    cases hd : decodeHeader h with
    | error err => simp [decode, hd] at e
    | ok op =>
      rw [decode_cons_of_ok hd] at e
      have hh := header_of_ok hd
      cases op with
      | init | setInputSelect => cases e; exact congrArg (· :: _) hh.1
      | filterUpdate | setScale | setOffset | toUnits =>
        cases args with
        | nil => cases e
        | cons a r => cases e; exact congrArg (· :: a :: _) hh
      | setFilterParams =>
        match args, e with
        | a0 :: a1 :: a2 :: r, e => cases e; exact congrArg (· :: a0 :: a1 :: a2 :: _) hh
      | _ => cases e; exact congrArg (· :: _) hh

/-- A command taken from whole packets is the first of them: whole packets are left over (20_memory R47). -/
theorem wholePackets_of_decode {packets : List (List Word)} {rest : List Word} {i : Instr}
    (hwhole : ∀ p ∈ packets, wholePacket p = true) (e : decode packets.flatten = .ok (i, rest)) :
    ∃ left : List (List Word), (∀ p ∈ left, wholePacket p = true) ∧ rest = left.flatten := by
  have hflat := eq_encode_append_of_decode e
  cases packets with
  | nil => cases e
  | cons p left =>
    obtain ⟨hp, hleft⟩ := List.forall_mem_cons.1 hwhole
    have hi := Laws.wholePacket_encode i
    cases hpc : p with
    | nil => exact absurd hpc (ne_nil_of_wholePacket hp)
    | cons h args =>
      cases hic : encode i with
      | nil => exact absurd hic (ne_nil_of_wholePacket hi)
      | cons h' args' =>
        simp only [hpc, hic, List.flatten_cons, List.cons_append, List.cons.injEq] at hflat
        obtain ⟨rfl, hargs⟩ := hflat
        have hlen : args.length = args'.length := by
          simp only [hpc, hic, wholePacket, beq_iff_eq] at hp hi
          omega
        exact ⟨left, hleft, (List.append_inj_right hargs hlen).symm⟩

end Sys2Proof

namespace Sys2Proof.Machine

/-! ### What each kind of step can do -/

/-- What a command can do when the block takes its packet, in every state (10_state R38): `s` is the state with the packet
taken. -/
inductive Executes (s : State) : Instr → State → Prop
  | fails (i : Instr) (c : Cause) : Executes s i (raiseFault i.op.opcode c s)
  | configures {sel : BitVec 2} {m : InputSelect} (hmode : modeOf sel = some m) :
      Executes s (.init sel) (goto (.run (.init sel) .lines) (dirIn s))
  | downAlready : Executes s .powerDown (goto .idle s)
  | goesDown (hup : linkUp s) : Executes s .powerDown (goto (.run .powerDown .hold) (clkSet .high s))
  | upAlready : Executes s .powerUp (goto .idle s)
  | wakes (hlink : s.link = true) (hdown : s.pwr = .powerDown) :
      Executes s .powerUp (goto .idle { clkSet .low s with pwr := .normal })
  | samples (v : Int) (d : Level) : Executes s .isReady (goto .idle (respond v (record (.sample d) (s.skip 1))))
  | begins {c : Instr} (hup : linkUp s) (hc : inTransaction c s) : Executes s c (goto (.run c .wait) s)
  | beginsSum {n : BitVec 16} (hup : linkUp s) (hn : n ≠ 0) :
      Executes s (.readRawAvg n) (goto (.run (.readRawAvg n) .wait) { s with acc := 0, cnt := n })
  | selects {sel : BitVec 2} {m : InputSelect} (hup : linkUp s) (hmode : modeOf sel = some m) :
      Executes s (.setInputSelect sel) (goto (.run (.setInputSelect sel) .wait) { s with sel := m })
  | filters (raw : Word) (v : Int) :
      Executes s (.filterUpdate raw) (goto .idle (respond v (filterUpdateP (s32 raw) s).2))
  | tunes {dlow dhigh : Word} {amin amax : Byte} (db : Word) (hok : badParams dlow dhigh amin amax = false) :
      Executes s (.setFilterParams dlow dhigh amin amax db)
        (goto .idle { s with dlow := dlow, dhigh := dhigh, amin := amin, amax := amax, deadband := db })
  | scales (value : Word) : Executes s (.setScale value) (goto .idle { s with scale := value })
  | offsets (value : Word) : Executes s (.setOffset value) (goto .idle { s with offset := value })
  | converts (count : Word) (q : Int) : Executes s (.toUnits count) (goto .idle (respond q s))

/-- What a command can do with the code of a transaction, in every state: `s` is the state with the selection armed. -/
inductive Finishes (s : State) : Instr → State → Prop
  | discards (c : Instr) : Finishes s c (goto .idle s)
  | reads (v : Int) : Finishes s .readRaw (goto .idle (respond v s))
  | sumsOn {n : BitVec 16} {code : Nat} (hcode : code < 2 ^ 24) (hcnt : s.cnt - 1 ≠ 0) :
      Finishes s (.readRawAvg n)
        (goto (.run (.readRawAvg n) .wait) { s with acc := s.acc + code, cnt := s.cnt - 1 })
  | means (n : BitVec 16) (v : Int) (sum : Nat) :
      Finishes s (.readRawAvg n) (goto .idle (respond v { s with acc := sum, cnt := s.cnt - 1 }))
  | filters (raw v : Int) : Finishes s .readFiltered (goto .idle (respond v (filterUpdateP raw s).2))
  | tares (raw v : Int) :
      Finishes s .tare (goto .idle (respond v { (filterUpdateP raw s).2 with offset := w32 v }))
  | converts (q : Int) : Finishes s .readRawUnits (goto .idle (respond q s))
  | convertFails (c : Cause) : Finishes s .readRawUnits (raiseFault Op.readRawUnits.opcode c s)
  | filterConverts (raw q : Int) :
      Finishes s .readFilteredUnits (goto .idle (respond q (filterUpdateP raw s).2))
  | filterConvertFails (raw : Int) (c : Cause) :
      Finishes s .readFilteredUnits (raiseFault Op.readFilteredUnits.opcode c (filterUpdateP raw s).2)

/-- What a running command can do from its position, in every state (10_state R38). -/
inductive Advances (s : State) : Instr → Pos → State → Prop
  | configures {sel : BitVec 2} {m : InputSelect} (hmode : modeOf sel = some m) :
      Advances s (.init sel) .lines
        (goto (.run (.init sel) .wait) { clkSet .low s with link := true, pwr := .normal, sel := m })
  | holds : Advances s .powerDown .hold (goto .idle { holdPd s with pwr := .powerDown })
  | pollsOn (c : Instr) (h : s.peek 0 = .high) :
      Advances s c .wait (goto (.run c .wait) (record (.sample .high) (s.skip 1)))
  | startsData (c : Instr) (h : s.peek 0 = .low) :
      Advances s c .wait (goto (.run c (.data 0 .hi)) { record (.sample .low) (s.skip 1) with shreg := 0 })
  | raises (c : Instr) (i : Fin 24) : Advances s c (.data i .hi) (goto (.run c (.sample i)) (clkSet .high s))
  | samples (c : Instr) (i : Fin 24) :
      Advances s c (.sample i)
        (goto (.run c (.data i .lo)) { record (.sample (s.peek 0)) (s.skip 1) with sbit := s.peek 0 })
  | shifts (c : Instr) (i : Fin 24) :
      Advances s c (.data i .lo)
        (goto (.run c (afterPulse i s.sel)) { clkSet .low s with shreg := shiftBit s.shreg s.sbit })
  | raisesTrail (c : Instr) (j : Nat) :
      Advances s c (.trail j .hi) (goto (.run c (.trail j .lo)) (clkSet .high s))
  | lowersTrail (c : Instr) (j : Nat) :
      Advances s c (.trail j .lo)
        (goto (.run c (if j < pTrail s.sel then .trail (j + 1) .hi else .fix)) (clkSet .low s))
  | finishes {c : Instr} {t : State} (h : Finishes { s with armed := some (pTrail s.sel) } c t) : Advances s c .fix t

/-- What a step can do (10_state R38). -/
inductive Steps (s : State) : State → Prop
  | takes {i : Instr} {rest : List Word} {t : State} (hidle : s.phase = .idle) (hd : decode s.port = .ok (i, rest))
      (h : Executes { s with port := rest } i t) : Steps s t
  | waits : Steps s s
  | rejects (opc : Byte) (hidle : s.phase = .idle) :
      Steps s (raiseFault opc .illegalCmd { s with port := s.port.tail })
  | advances {c : Instr} {p : Pos} {t : State} (hrun : s.phase = .run c p) (h : Advances s c p t) : Steps s t
  | ignores (hhalted : s.phase = .halted) : Steps s (ignoreWord s)

/-! ### The model's step answers nothing else -/

theorem executes_of_linePre {i : Instr} {s t : State} {body : Result} (h : linePre i.op s body = .next t)
    (hbody : linkUp s → body = .next t → Executes s i t) : Executes s i t := by
  obtain ⟨c, rfl⟩ | ⟨hup, hb⟩ := linePre_cases h
  · exact .fails i c
  · exact hbody hup hb

theorem executes_of_linePre_begin {i : Instr} {s t : State} (h : linePre i.op s (.next (beginTransaction i s)) = .next t)
    (hi : inTransaction i s) : Executes s i t :=
  executes_of_linePre h fun hup hb => by cases hb; exact .begins hup hi

/-- READ_RAW_UNITS and READ_FILTERED_UNITS check `SCALE` before they begin (43_calibration R111, R112). -/
theorem executes_of_linePre_scaled {i : Instr} {s t : State}
    (h : linePre i.op s (if s.scale = 0 then fail i.op .divZero s else .next (beginTransaction i s)) = .next t)
    (hi : s.scale ≠ 0 → inTransaction i s) : Executes s i t := by
  refine executes_of_linePre h fun hup hb => ?_
  split at hb
  · cases hb; exact .fails i _
  · next hscale => cases hb; exact .begins hup (hi hscale)

/-- A conversion responds or faults (43_calibration R106). -/
theorem respondUnits_next {op : Op} {count : Int} {s t : State} (h : respondUnits op count s = .next t) :
    (∃ q, t = goto .idle (respond q s)) ∨ ∃ c, t = raiseFault op.opcode c s := by
  unfold respondUnits at h
  split at h <;> cases h
  · exact .inl ⟨_, rfl⟩
  · exact .inr ⟨_, rfl⟩

theorem eq_normal_of_ne {m : PowerMode} (h : m ≠ .powerDown) : m = .normal := by
  cases m with
  | normal => rfl
  | powerDown => exact absurd rfl h

theorem eq_powerDown_of_ne {m : PowerMode} (h : m ≠ .normal) : m = .powerDown := by
  cases m with
  | normal => exact absurd rfl h
  | powerDown => rfl

theorem executes_of_exec {i : Instr} {s t : State} (h : exec i s = .next t) : Executes s i t := by
  cases i with
  | init sel =>
    simp only [exec, execInit] at h
    split at h <;> cases h
    · exact .fails (.init sel) _
    · next hmode => exact .configures hmode
  | powerDown =>
    simp only [exec, execPowerDown] at h
    split at h
    · cases h; exact .fails .powerDown _
    split at h <;> cases h
    · exact .downAlready
    · next hlink hpwr => exact .goesDown ⟨by simpa using hlink, eq_normal_of_ne hpwr⟩
  | powerUp =>
    simp only [exec, execPowerUp] at h
    split at h
    · cases h; exact .fails .powerUp _
    split at h <;> cases h
    · exact .upAlready
    · next hlink hpwr => exact .wakes (by simpa using hlink) (eq_powerDown_of_ne hpwr)
  | isReady => exact executes_of_linePre (i := .isReady) h fun _ hb => by cases hb; exact .samples _ _
  | readRaw => exact executes_of_linePre_begin (i := .readRaw) h trivial
  | readFiltered => exact executes_of_linePre_begin (i := .readFiltered) h trivial
  | tare => exact executes_of_linePre_begin (i := .tare) h trivial
  | readRawUnits => exact executes_of_linePre_scaled (i := .readRawUnits) h id
  | readFilteredUnits => exact executes_of_linePre_scaled (i := .readFilteredUnits) h id
  | readRawAvg n =>
    refine executes_of_linePre (i := .readRawAvg n) h fun hup hb => ?_
    split at hb <;> cases hb
    · exact .fails (.readRawAvg n) _
    · next hn => exact .beginsSum hup hn
  | setInputSelect sel =>
    simp only [exec, execSetInputSelect] at h
    split at h
    · cases h; exact .fails (.setInputSelect sel) _
    · next hmode =>
        exact executes_of_linePre (i := .setInputSelect sel) h fun hup hb => by cases hb; exact .selects hup hmode
  | filterUpdate raw => cases h; exact .filters raw _
  | setFilterParams dlow dhigh amin amax db =>
    simp only [exec, execSetFilterParams] at h
    split at h <;> cases h
    · exact .fails (.setFilterParams dlow dhigh amin amax db) _
    · next hok => exact .tunes db (by simpa using hok)
  | setScale value => cases h; exact .scales value
  | setOffset value => cases h; exact .offsets value
  | toUnits count =>
    obtain ⟨q, rfl⟩ | ⟨c, rfl⟩ := respondUnits_next h
    · exact .converts count q
    · exact .fails (.toUnits count) c

theorem finishes_of_afterTransaction {c : Instr} {v : BitVec 24} {s t : State}
    (h : afterTransaction c (rawCode v) s = .next t) : Finishes s c t := by
  cases c with
  | init sel => cases h; exact .discards _
  | setInputSelect sel => cases h; exact .discards _
  | readRaw => cases h; exact .reads _
  | readRawAvg n =>
    simp only [afterTransaction, finishReadRawAvg] at h
    split at h <;> cases h
    · exact .means n _ _
    · next hcnt => exact .sumsOn (rawCode_lt v) hcnt
  | readFiltered => cases h; exact .filters _ _
  | tare => cases h; exact .tares _ _
  | readRawUnits =>
    obtain ⟨q, rfl⟩ | ⟨c, rfl⟩ := respondUnits_next h
    · exact .converts q
    · exact .convertFails c
  | readFilteredUnits =>
    obtain ⟨q, rfl⟩ | ⟨c, rfl⟩ := respondUnits_next h
    · exact .filterConverts _ q
    · exact .filterConvertFails _ c
  | _ => cases h

theorem advances_of_advance {c : Instr} {p : Pos} {s t : State} (h : advance c p s = .next t) : Advances s c p t := by
  cases p with
  | lines =>
    cases c with
    | init sel =>
      simp only [advance, linesStep, initLines] at h
      split at h <;> cases h
      next hmode => exact .configures hmode
    | _ => cases h
  | hold =>
    cases c with
    | powerDown => cases h; exact .holds
    | _ => cases h
  | wait =>
    cases h
    cases hd : s.peek 0 with
    | low => rw [pollStep_low c hd]; exact .startsData c hd
    | high => rw [pollStep_high c hd]; exact .pollsOn c hd
  | data i half =>
    cases half with
    | hi => cases h; exact .raises c i
    | lo => cases h; exact .shifts c i
  | sample i => cases h; exact .samples c i
  | trail j half =>
    cases half with
    | hi => cases h; exact .raisesTrail c j
    | lo => cases h; exact .lowersTrail c j
  | fix => exact .finishes (finishes_of_afterTransaction h)

/-- Everything a step can do: the one case analysis of `step` that the proofs about single steps share. -/
theorem steps_of_step {s t : State} (h : step s = .next t) : Steps s t := by
  cases hp : s.phase with
  | idle =>
    cases hd : decode s.port with
    | ok packet =>
      rw [step_idle_ok hp hd] at h
      exact .takes hp hd (executes_of_exec h)
    | error e =>
      rw [step_idle_error hp hd] at h
      cases h
      cases e with
      | noHeader | missingArguments => exact .waits
      | unknownOpcode | reservedBits | illegalSelect => exact .rejects _ hp
  | run c p =>
    rw [step_run hp] at h
    exact .advances hp (advances_of_advance h)
  | halted =>
    rw [step_halted hp] at h
    cases h
    exact .ignores hp

/-! ### Frames of single steps -/

/-- The operand check of SET_FILTER_PARAMS is the tuning invariant of what it writes (42_filter R105). -/
theorem badParams_eq_false_iff {dlow dhigh : Word} {amin amax : Byte} :
    badParams dlow dhigh amin amax = false ↔ u32 dlow < u32 dhigh ∧ u8 amin ≤ u8 amax := by
  simp [badParams]

theorem tuningOk_construct {P : Params} (h : P.valid = true) : tuningOk (State.construct P) := by
  obtain ⟨-, hthresholds, hcoefficients⟩ := P.valid_iff.1 h
  exact ⟨Int.ofNat_lt.2 hthresholds, Int.ofNat_le.2 hcoefficients⟩

/-- Only SET_FILTER_PARAMS writes the tuning registers, and its operand check is the invariant (10_state R33). -/
theorem Steps.keeps_tuningOk {s t : State} (h : Steps s t) (hs : tuningOk s) : tuningOk t := by
  cases h with
  | takes _ _ he =>
    cases he with
    | tunes db hok => exact badParams_eq_false_iff.1 hok
    | _ => simpa [tuningOk] using hs
  | waits => exact hs
  | rejects opc _ => exact hs
  | advances _ ha =>
    cases ha with
    | finishes hf => cases hf <;> simpa [tuningOk] using hs
    | _ => simpa [tuningOk] using hs
  | ignores _ => exact hs

/-- Settles O17: SET_FILTER_PARAMS, the one command that writes the tuning registers, checks what it writes. -/
theorem tuningInvariantsHoldAtEveryStep : Obligations.TuningInvariantsHoldAtEveryStep :=
  ⟨fun _ => tuningOk_construct, fun _ _ hs h => (steps_of_step h).keeps_tuningOk hs,
    fun s => ⟨(u8_range s.amin).2, (u8_range s.amax).2⟩⟩

/-- `INIT_F` and `LINK` are written only to 1, and FAULT only with a record. -/
theorem Steps.flags {s t : State} (h : Steps s t) :
    (s.initF = true → t.initF = true) ∧ (s.link = true → t.link = true) ∧
      (t.fault = s.fault ∨ t.phase = .halted ∧ ∃ opc c, t.fault = faultRecord opc c) := by
  cases h with
  | takes _ _ he =>
    cases he with
    | fails i c => exact ⟨id, id, .inr ⟨rfl, _, _, rfl⟩⟩
    | _ => simp
  | waits => exact ⟨id, id, .inl rfl⟩
  | rejects opc _ => exact ⟨id, id, .inr ⟨rfl, _, _, rfl⟩⟩
  | advances _ ha =>
    cases ha with
    | finishes hf =>
      cases hf with
      | convertFails c => exact ⟨id, id, .inr ⟨rfl, _, _, rfl⟩⟩
      | filterConvertFails raw c => exact ⟨by simp, by simp, .inr ⟨rfl, _, _, rfl⟩⟩
      | _ => simp
    | _ => simp
  | ignores _ => exact ⟨id, id, .inl rfl⟩

theorem Steps.keeps_fv {s t : State} (h : Steps s t) (hs : s.fv = true) : t.fv = true := by
  obtain ⟨-, -, hfault | ⟨-, opc, c, hfault⟩⟩ := h.flags
  · rw [State.fv, hfault]; exact hs
  · rw [State.fv, hfault]; exact faultRecord_fv opc c

/-- Settles O23: no step writes a 0 to a flag, and a host write writes no register. -/
theorem flagsAreClearedOnlyByReset : Obligations.FlagsAreClearedOnlyByReset := by
  intro m s t hm h
  cases m with
  | step =>
    have hsteps : Steps s t := steps_of_step h
    obtain ⟨hseed, hlink, -⟩ := hsteps.flags
    exact ⟨hseed, hlink, hsteps.keeps_fv⟩
  | write ws =>
    obtain ⟨-, rfl⟩ | ⟨-, -, rfl⟩ := hostWrite_next h <;> exact ⟨id, id, id⟩
  | reset P => exact absurd rfl (hm P)

/-- `CLK` changes only by a `ClkSet`, which records its event (20_memory R49, R53). -/
theorem Steps.clk {s t : State} (h : Steps s t) :
    t.clk = s.clk ∨ ∃ l, t.clk = some l ∧ t.trace = s.trace ++ [.clk l] := by
  cases h with
  | takes _ _ he => cases he <;> simp
  | waits => exact .inl rfl
  | rejects opc _ => exact .inl rfl
  | advances _ ha =>
    cases ha with
    | finishes hf => cases hf <;> simp
    | _ => simp
  | ignores _ => exact .inl rfl

/-! ### The armed selection -/

/-- A clock edge leaves the selection as it was, or unknown where it wakes a sensor not known to be up (10_state R41). -/
theorem wakeArmed_cases (l : Level) (s : State) :
    wakeArmed l s = s.armed ∨ (wakeArmed l s = none ∧ s.sensorPower ≠ some .normal ∧ s.clk ≠ some l) := by
  unfold wakeArmed isTransition
  split
  · next hwake => exact .inr ⟨rfl, hwake.2, by simpa using hwake.1⟩
  · exact .inl rfl

theorem clkSet_armed_cases (l : Level) (s : State) :
    (clkSet l s).armed = s.armed ∨
      ((clkSet l s).armed = none ∧ s.sensorPower ≠ some .normal ∧ (clkSet l s).clk ≠ s.clk) := by
  obtain h | ⟨h, hp, hclk⟩ := wakeArmed_cases l s
  · exact .inl h
  · exact .inr ⟨h, hp, Ne.symm hclk⟩

/-- FIX arms the trailing pulses of `SEL`, whatever the command makes of the code. -/
theorem Finishes.armed {c : Instr} {s t : State} (h : Finishes s c t) : t.armed = s.armed := by cases h <;> simp

/-- What a step does to the armed selection (10_state R41). -/
theorem Steps.armed {s t : State} (h : Steps s t) :
    t.armed = s.armed ∨ (∃ c, s.phase = .run c .fix ∧ t.armed = some (pTrail s.sel)) ∨
      (t.armed = none ∧ s.sensorPower ≠ some .normal ∧ t.clk ≠ s.clk) := by
  cases h with
  | @takes i rest t _ _ he =>
    cases he with
    | goesDown _ => exact (clkSet_armed_cases .high { s with port := rest }).imp_right .inr
    | wakes _ _ => exact (clkSet_armed_cases .low { s with port := rest }).imp_right .inr
    | _ => simp
  | waits => exact .inl rfl
  | rejects opc _ => exact .inl rfl
  | advances hrun ha =>
    cases ha with
    | configures _ => exact (clkSet_armed_cases .low s).imp_right .inr
    | raises _ _ => exact (clkSet_armed_cases .high s).imp_right .inr
    | shifts _ _ => exact (clkSet_armed_cases .low s).imp_right .inr
    | raisesTrail _ _ => exact (clkSet_armed_cases .high s).imp_right .inr
    | lowersTrail _ _ => exact (clkSet_armed_cases .low s).imp_right .inr
    | finishes hf => exact .inr (.inl ⟨_, hrun, hf.armed⟩)
    | _ => exact .inl rfl
  | ignores _ => exact .inl rfl

/-! ### The invariant between commands and inside a transaction -/

/-- Whole packets stand at the port (20_memory R47). -/
def wholePort (s : State) : Prop :=
  ∃ packets : List (List Word), (∀ p ∈ packets, wholePacket p = true) ∧ s.port = packets.flatten

/-- What `Inv` asks of every state that is not halted. -/
def Sound (s : State) : Prop :=
  tuningOk s ∧ s.fault = 0 ∧ s.ddir = .input ∧ (s.link = false → s.pwr = .normal) ∧ wholePort s

/-- The state of a block between two commands, whatever its `phase` still says. -/
def AtRest (s : State) : Prop :=
  Sound s ∧ s.clk = restingClk s ∧ sensorOk s ∧ (s.armed = none ∨ s.armed = some (pTrail s.sel))

/-- The state of a block inside a transaction of `c`, but for the clock line and the position. -/
def Transacting (c : Instr) (s : State) : Prop :=
  Sound s ∧ linkUp s ∧ s.sensorPower = some .normal ∧ inTransaction c s

/-- The positions of a transaction under the mode `m` (10_state R38). -/
def Pos.transacts (m : InputSelect) : Pos → Prop
  | .lines => False
  | .hold => False
  | .wait => True
  | .data _ _ => True
  | .sample _ => True
  | .trail j _ => 1 ≤ j ∧ j ≤ pTrail m
  | .fix => True

/-! From `Inv` to the two kinds of state. -/

theorem Inv.fault_eq_zero {s : State} (h : Inv s) (hp : s.phase ≠ .halted) : s.fault = 0 := by
  obtain ⟨hh, -⟩ | ⟨-, hf⟩ := h.fault
  · exact absurd hh hp
  · exact hf

theorem Inv.sound {s : State} (h : Inv s) (hp : s.phase ≠ .halted) : Sound s :=
  have ⟨_, hddir, hpwr⟩ := h.lines
  ⟨h.tuning, h.fault_eq_zero hp, hddir, hpwr, h.port.resolve_left hp⟩

/-- A block that has not begun a command's transaction or power-down is at rest (10_state R29, R41). -/
theorem Inv.atRest {s : State} (h : Inv s) (hp : s.phase = .idle ∨ ∃ c, s.phase = .run c .lines) : AtRest s := by
  obtain ⟨hclk, -, -⟩ := h.lines
  have harmed := h.armed
  obtain hp | ⟨c, hp⟩ := hp <;>
  · simp only [expectedClk, hp] at hclk
    simp only [armedOk, hp] at harmed
    exact ⟨h.sound (by simp [hp]), hclk, h.sensor, harmed⟩

/-- Inside a command the level of the clock line follows from the position (10_state R29). -/
theorem Inv.clk_run {s : State} {c : Instr} {p : Pos} (h : Inv s) (hp : s.phase = .run c p) :
    s.clk = expectedClk (goto (.run c p) s) := by
  rw [← hp]
  exact h.lines.1

theorem Inv.transacting {s : State} {c : Instr} {p : Pos} (h : Inv s) (hp : s.phase = .run c p)
    (hlines : p ≠ .lines) (hhold : p ≠ .hold) : Transacting c s ∧ p.transacts s.sel := by
  have hphase := h.phase
  have hsensor := h.sensor
  simp only [phaseOk, hp] at hphase
  have hup : inTransaction c s ∧ linkUp s ∧ p.transacts s.sel := by
    cases p with
    | lines => exact absurd rfl hlines
    | hold => exact absurd rfl hhold
    | trail j half =>
      obtain ⟨hc, hlink, hpwr, hj⟩ := hphase
      exact ⟨hc, ⟨hlink, hpwr⟩, hj⟩
    | _ =>
      obtain ⟨hc, hlink, hpwr⟩ := hphase
      exact ⟨hc, ⟨hlink, hpwr⟩, trivial⟩
  obtain ⟨hc, hl, hpos⟩ := hup
  exact ⟨⟨h.sound (by simp [hp]), hl, by simpa [sensorOk, hl.1, hl.2] using hsensor, hc⟩, hpos⟩

/-! From the two kinds of state to `Inv`. -/

theorem AtRest.inv_idle {s : State} (h : AtRest s) : Inv (goto .idle s) := by
  obtain ⟨⟨htuning, hfault, hddir, hpwr, hport⟩, hclk, hsensor, harmed⟩ := h
  exact ⟨htuning, .inr ⟨nofun, hfault⟩, trivial, ⟨hclk, hddir, hpwr⟩, hsensor, harmed, .inr hport⟩

/-- Fault entry from rest, whatever is left at the port (60_exceptions R123). -/
theorem AtRest.inv_raiseFault {s : State} (h : AtRest s) (opc : Byte) (c : Cause) (ws : List Word) :
    Inv (raiseFault opc c { s with port := ws }) := by
  obtain ⟨⟨htuning, -, hddir, hpwr, -⟩, hclk, hsensor, harmed⟩ := h
  exact ⟨htuning, .inl ⟨rfl, opc, c, rfl⟩, trivial, ⟨hclk, hddir, hpwr⟩, hsensor, harmed, .inl rfl⟩

/-- INIT after its first line event (44_control R115). -/
theorem AtRest.inv_lines {s : State} (h : AtRest s) {sel : BitVec 2} {m : InputSelect} (hmode : modeOf sel = some m) :
    Inv (goto (.run (.init sel) .lines) (dirIn s)) := by
  obtain ⟨⟨htuning, hfault, -, hpwr, hport⟩, hclk, hsensor, harmed⟩ := h
  exact ⟨htuning, .inr ⟨nofun, hfault⟩, ⟨sel, rfl, by simp [hmode]⟩, ⟨hclk, rfl, hpwr⟩, hsensor, harmed,
    .inr hport⟩

theorem AtRest.sensorPower_eq {s : State} (h : AtRest s) (hup : linkUp s) : s.sensorPower = some .normal := by
  obtain ⟨-, -, hsensor, -⟩ := h
  simpa [sensorOk, hup.1, hup.2] using hsensor

/-- A powered block between commands holds the clock line low (10_state R29). -/
theorem AtRest.clk_eq_low {s : State} (h : AtRest s) (hup : linkUp s) : s.clk = some .low := by
  obtain ⟨-, hclk, -, -⟩ := h
  simpa [restingClk, hup.1, hup.2] using hclk

/-- POWER_DOWN after its clock edge (44_control R116): the edge leaves the powered sensor and its selection alone. -/
theorem AtRest.inv_hold {s : State} (h : AtRest s) (hup : linkUp s) :
    Inv (goto (.run .powerDown .hold) (clkSet .high s)) := by
  obtain ⟨hpower, hsel⟩ := wake_of_normal (l := .high) (h.sensorPower_eq hup)
  obtain ⟨⟨htuning, hfault, hddir, hpwr, hport⟩, -, -, harmed⟩ := h
  refine ⟨htuning, .inr ⟨nofun, hfault⟩, ⟨rfl, hup⟩, ⟨rfl, hddir, hpwr⟩, ?_, ?_, .inr hport⟩
  · exact hpower.trans (by simp [hup.1, hup.2])
  · rw [← hsel] at harmed; exact harmed

theorem AtRest.filterUpdateP {s : State} (h : AtRest s) (raw : Int) : AtRest (filterUpdateP raw s).2 := by
  rw [filterUpdateP_frame]; exact h

/-! A sample draws a level and changes nothing else that the invariant speaks of. -/

theorem Sound.sample {s : State} (h : Sound s) (d : Level) : Sound (record (.sample d) (s.skip 1)) := by
  simpa [Sound, tuningOk, wholePort] using h

theorem AtRest.sample {s : State} (h : AtRest s) (d : Level) : AtRest (record (.sample d) (s.skip 1)) := by
  obtain ⟨hsound, hclk, hsensor, harmed⟩ := h
  exact ⟨hsound.sample d, hclk, hsensor, harmed⟩

theorem Transacting.sample {s : State} {c : Instr} (h : Transacting c s) (d : Level) :
    Transacting c (record (.sample d) (s.skip 1)) := by
  obtain ⟨hsound, hup, hpower, hc⟩ := h
  exact ⟨hsound.sample d, hup, hpower, hc⟩

theorem AtRest.transacting {s : State} {c : Instr} (h : AtRest s) (hup : linkUp s) (hc : inTransaction c s) :
    Transacting c s := ⟨h.1, hup, h.sensorPower_eq hup, hc⟩

/-- At a position of a transaction the level of the clock line follows from the position alone (40_link R84, R87). -/
theorem Transacting.inv_goto {s : State} {c : Instr} (h : Transacting c s) {p : Pos} (hpos : p.transacts s.sel)
    (hclk : s.clk = expectedClk (goto (.run c p) s)) : Inv (goto (.run c p) s) := by
  obtain ⟨⟨htuning, hfault, hddir, hpwr, hport⟩, ⟨hlink, hnormal⟩, hpower, hc⟩ := h
  refine ⟨htuning, .inr ⟨nofun, hfault⟩, ?_, ⟨hclk, hddir, hpwr⟩, by simp [sensorOk, hpower, hlink, hnormal], ?_,
    .inr hport⟩
  · cases p with
    | lines | hold => exact hpos.elim
    | trail j half => exact ⟨hc, hlink, hnormal, hpos⟩
    | _ => exact ⟨hc, hlink, hnormal⟩
  · cases p with
    | lines | hold => exact hpos.elim
    | _ => trivial

/-- A clock edge inside a transaction leaves the powered sensor powered. -/
theorem Transacting.clkSet {s : State} {c : Instr} (h : Transacting c s) (l : Level) : Transacting c (clkSet l s) := by
  obtain ⟨hsound, hup, hpower, hc⟩ := h
  exact ⟨hsound, hup, (wake_of_normal hpower).1, hc⟩

/-- At FIX the clock line is low and the selection armed, as between commands (41_acquisition R90). -/
theorem Transacting.atRest {s : State} {c : Instr} (h : Transacting c s) (hclk : s.clk = some .low) :
    AtRest { s with armed := some (pTrail s.sel) } := by
  obtain ⟨hsound, ⟨hlink, hnormal⟩, hpower, hc⟩ := h
  exact ⟨hsound, by simp [restingClk, hlink, hnormal, hclk], by simp [sensorOk, hlink, hnormal, hpower], .inr rfl⟩

/-- After a data pulse comes a position of the transaction with the clock line low (40_link R87, R88). -/
theorem afterPulse_transacts (i : Fin 24) (m : InputSelect) : (afterPulse i m).transacts m := by
  unfold afterPulse
  split
  · trivial
  · cases m
    · trivial
    · exact ⟨le_rfl, le_rfl⟩
    · exact ⟨le_rfl, le_rfl⟩

theorem expectedClk_afterPulse (c : Instr) (i : Fin 24) (m : InputSelect) (s : State) :
    expectedClk (goto (.run c (afterPulse i m)) s) = some .low := by
  unfold afterPulse
  split
  · rfl
  · cases m <;> rfl

/-- Driving the clock line low leaves the sensor up: it was up, or the edge is a wake (20_memory R64). -/
theorem wakePower_low_of_resting {s : State} (hclk : s.clk = restingClk s) (hsensor : sensorOk s) :
    wakePower .low s = some .normal := by
  by_cases hlow : s.clk = some .low
  · have hup : s.link = true ∧ s.pwr = .normal := by
      rw [hlow] at hclk
      unfold restingClk at hclk
      split at hclk
      · next hlink => exact ⟨hlink, eq_normal_of_ne fun hdown => by simp [hdown] at hclk⟩
      · cases hclk
    exact (wake_of_normal (by simpa [sensorOk, hup.1, hup.2] using hsensor)).1
  · exact wakePower_of_ne hlow

/-- POWER_UP's clock edge wakes the sensor, and its selection is unknown (10_state R41, 70_reset R148). -/
theorem AtRest.wakes {s : State} (h : AtRest s) (hlink : s.link = true) (hdown : s.pwr = .powerDown) :
    wakePower .low s = some .normal ∧ wakeArmed .low s = none := by
  obtain ⟨-, hclk, hsensor, -⟩ := h
  refine ⟨wakePower_low_of_resting hclk hsensor, ?_⟩
  have hhigh : s.clk = some .high := by simpa [restingClk, hlink, hdown] using hclk
  have hpower : s.sensorPower = some .powerDown := by simpa [sensorOk, hlink, hdown] using hsensor
  simp [wakeArmed, isTransition, hhigh, hpower]

theorem AtRest.inv_wakes {s : State} (h : AtRest s) (hlink : s.link = true) (hdown : s.pwr = .powerDown) :
    Inv (goto .idle { clkSet .low s with pwr := .normal }) := by
  obtain ⟨hpower, harmed⟩ := h.wakes hlink hdown
  obtain ⟨⟨htuning, hfault, hddir, -, hport⟩, -, -, -⟩ := h
  refine AtRest.inv_idle ⟨⟨htuning, hfault, hddir, fun _ => rfl, hport⟩, ?_, ?_, .inl harmed⟩
  · simp [restingClk, hlink]
  · exact hpower.trans (by simp [hlink])

/-- INIT after its second line event is in a transaction under its mode (44_control R115). -/
theorem AtRest.transacting_init {s : State} (h : AtRest s) {sel : BitVec 2} {m : InputSelect}
    (hmode : modeOf sel = some m) :
    Transacting (.init sel) { clkSet .low s with link := true, pwr := .normal, sel := m } := by
  obtain ⟨⟨htuning, hfault, hddir, -, hport⟩, hclk, hsensor, -⟩ := h
  exact ⟨⟨htuning, hfault, hddir, nofun, hport⟩, ⟨rfl, rfl⟩, wakePower_low_of_resting hclk hsensor, hmode⟩

/-- POWER_DOWN's hold ends it at rest, powered down (44_control R116, R118). -/
theorem Inv.inv_holds {s : State} (h : Inv s) (hp : s.phase = .run .powerDown .hold) :
    Inv (goto .idle { holdPd s with pwr := .powerDown }) := by
  have hphase := h.phase
  have harmed := h.armed
  obtain ⟨hclk, -, -⟩ := h.lines
  simp only [phaseOk, hp] at hphase
  simp only [armedOk, hp] at harmed
  simp only [expectedClk, hp] at hclk
  obtain ⟨-, hlink, -⟩ := hphase
  obtain ⟨htuning, hfault, hddir, -, hport⟩ := h.sound (by simp [hp])
  refine AtRest.inv_idle ⟨⟨htuning, hfault, hddir, ?_, hport⟩, ?_, ?_, harmed⟩
  · simp [hlink]
  · simp [restingClk, hlink, hclk]
  · simp [sensorOk, hlink]

/-- One more code keeps READ_RAW_AVG's sum bounded by the codes summed (41_acquisition R94). -/
theorem inTransaction_sumsOn {s : State} {n : BitVec 16} {code : Nat} (h : inTransaction (.readRawAvg n) s)
    (hcode : code < 2 ^ 24) (hcnt : s.cnt - 1 ≠ 0) :
    inTransaction (.readRawAvg n) { s with acc := s.acc + code, cnt := s.cnt - 1 } := by
  obtain ⟨hpos, hle, hacc⟩ := h
  have hdec : (s.cnt - 1).toNat + 1 = s.cnt.toNat := by bv_omega
  have hrest : 0 < (s.cnt - 1).toNat := by bv_omega
  refine ⟨hrest, by simp only; omega, ?_⟩
  have hmore : n.toNat - (s.cnt - 1).toNat = n.toNat - s.cnt.toNat + 1 := by omega
  simp only [hmore, Nat.add_mul]
  omega

/-! ### Each kind of step keeps the invariant -/

theorem Executes.keeps_inv {i : Instr} {s t : State} (h : Executes s i t) (hs : AtRest s) : Inv t := by
  have hsound : Sound s := hs.1
  cases h with
  | fails i c => exact hs.inv_raiseFault _ c s.port
  | configures hmode => exact hs.inv_lines hmode
  | downAlready => exact hs.inv_idle
  | goesDown hup => exact hs.inv_hold hup
  | upAlready => exact hs.inv_idle
  | wakes hlink hdown => exact hs.inv_wakes hlink hdown
  | samples v d => exact AtRest.inv_idle (s := respond v _) (hs.sample d)
  | begins hup hc => exact (hs.transacting hup hc).inv_goto trivial (hs.clk_eq_low hup)
  | @beginsSum n hup hn =>
    have hc : inTransaction (.readRawAvg n) { s with acc := 0, cnt := n } := ⟨by bv_omega, le_rfl, Nat.zero_le _⟩
    have ht : Transacting (.readRawAvg n) { s with acc := 0, cnt := n } := ⟨hsound, hup, hs.sensorPower_eq hup, hc⟩
    exact ht.inv_goto trivial (hs.clk_eq_low hup)
  | @selects sel m hup hmode =>
    have ht : Transacting (.setInputSelect sel) { s with sel := m } := ⟨hsound, hup, hs.sensorPower_eq hup, hmode⟩
    exact ht.inv_goto trivial (hs.clk_eq_low hup)
  | filters raw v => exact AtRest.inv_idle (s := respond v _) (hs.filterUpdateP (s32 raw))
  | @tunes dlow dhigh amin amax db hok =>
    obtain ⟨⟨-, hrest⟩, hlines⟩ := hs
    exact AtRest.inv_idle
      (s := { s with dlow := dlow, dhigh := dhigh, amin := amin, amax := amax, deadband := db })
      ⟨⟨badParams_eq_false_iff.1 hok, hrest⟩, hlines⟩
  | scales value => exact AtRest.inv_idle (s := { s with scale := value }) hs
  | offsets value => exact AtRest.inv_idle (s := { s with offset := value }) hs
  | converts count q => exact AtRest.inv_idle (s := respond q s) hs

theorem Finishes.keeps_inv {c : Instr} {s t : State} (h : Finishes s c t) (hs : AtRest s) (hup : linkUp s)
    (hc : inTransaction c s) : Inv t := by
  cases h with
  | discards c => exact hs.inv_idle
  | reads v => exact AtRest.inv_idle (s := respond v s) hs
  | @sumsOn n code hcode hcnt =>
    have ht : Transacting (.readRawAvg n) { s with acc := s.acc + code, cnt := s.cnt - 1 } :=
      ⟨hs.1, hup, hs.sensorPower_eq hup, inTransaction_sumsOn hc hcode hcnt⟩
    exact ht.inv_goto trivial (hs.clk_eq_low hup)
  | means n v sum => exact AtRest.inv_idle (s := respond v { s with acc := sum, cnt := s.cnt - 1 }) hs
  | filters raw v => exact AtRest.inv_idle (s := respond v _) (hs.filterUpdateP raw)
  | tares raw v =>
    exact AtRest.inv_idle (s := respond v { (filterUpdateP raw s).2 with offset := w32 v }) (hs.filterUpdateP raw)
  | converts q => exact AtRest.inv_idle (s := respond q s) hs
  | convertFails c => exact hs.inv_raiseFault _ c s.port
  | filterConverts raw q => exact AtRest.inv_idle (s := respond q _) (hs.filterUpdateP raw)
  | filterConvertFails raw c => exact (hs.filterUpdateP raw).inv_raiseFault _ c _

/-- Inside a command: before its transaction, in it, or at its end. -/
theorem Advances.keeps_inv {c : Instr} {p : Pos} {s t : State} (h : Advances s c p t) (hs : Inv s)
    (hp : s.phase = .run c p) : Inv t := by
  have hclk := hs.clk_run hp
  cases h with
  | configures hmode => exact ((hs.atRest (.inr ⟨_, hp⟩)).transacting_init hmode).inv_goto trivial rfl
  | holds => exact hs.inv_holds hp
  | pollsOn c _ =>
    obtain ⟨ht, -⟩ := hs.transacting hp nofun nofun
    exact (ht.sample .high).inv_goto trivial hclk
  | startsData c _ =>
    obtain ⟨ht, -⟩ := hs.transacting hp nofun nofun
    exact Transacting.inv_goto (s := { record (.sample .low) (s.skip 1) with shreg := 0 }) (ht.sample .low) trivial hclk
  | raises c i =>
    obtain ⟨ht, -⟩ := hs.transacting hp nofun nofun
    exact (ht.clkSet .high).inv_goto trivial rfl
  | samples c i =>
    obtain ⟨ht, -⟩ := hs.transacting hp nofun nofun
    exact Transacting.inv_goto (s := { record (.sample (s.peek 0)) (s.skip 1) with sbit := s.peek 0 })
      (ht.sample (s.peek 0)) trivial hclk
  | shifts c i =>
    obtain ⟨ht, -⟩ := hs.transacting hp nofun nofun
    exact Transacting.inv_goto (s := { clkSet .low s with shreg := shiftBit s.shreg s.sbit }) (ht.clkSet .low)
      (afterPulse_transacts i s.sel) (expectedClk_afterPulse c i s.sel _).symm
  | raisesTrail c j =>
    obtain ⟨ht, hj⟩ := hs.transacting hp nofun nofun
    exact (ht.clkSet .high).inv_goto hj rfl
  | lowersTrail c j =>
    obtain ⟨ht, hfirst, -⟩ := hs.transacting hp nofun nofun
    split
    · next hmore => exact (ht.clkSet .low).inv_goto ⟨Nat.le_succ_of_le hfirst, hmore⟩ rfl
    · exact (ht.clkSet .low).inv_goto trivial rfl
  | finishes hf =>
    obtain ⟨ht, -⟩ := hs.transacting hp nofun nofun
    have ⟨_, hup, _, hc⟩ := ht
    exact hf.keeps_inv (ht.atRest hclk) hup hc

theorem Steps.keeps_inv {s t : State} (h : Steps s t) (hs : Inv s) : Inv t := by
  cases h with
  | @takes i rest t hidle hd he =>
    obtain ⟨⟨htuning, hfault, hddir, hpwr, packets, hwhole, hport⟩, hlines⟩ := hs.atRest (.inl hidle)
    have hleft : wholePort { s with port := rest } := wholePackets_of_decode hwhole (hport ▸ hd)
    exact he.keeps_inv ⟨⟨htuning, hfault, hddir, hpwr, hleft⟩, hlines⟩
  | waits => exact hs
  | rejects opc hidle => exact (hs.atRest (.inl hidle)).inv_raiseFault opc .illegalCmd s.port.tail
  | advances hrun ha => exact ha.keeps_inv hs hrun
  | ignores hhalted => exact ⟨hs.tuning, hs.fault, hs.phase, hs.lines, hs.sensor, hs.armed, .inl hhalted⟩

/-- Settles O14, by the cases of a step: a block at rest, inside a command, or halted. -/
theorem everyStepKeepsTheInvariant : Obligations.EveryStepKeepsTheInvariant :=
  fun _ _ hs h => (steps_of_step h).keeps_inv hs

/-! ### Launches, moves and reachable states -/

theorem inv_launch {P : Params} {packets : List (List Word)} (hP : P.valid = true)
    (hwhole : ∀ p ∈ packets, wholePacket p = true) (ds : List Level) : Inv (launch P packets ds) :=
  ⟨tuningOk_construct hP, .inr ⟨nofun, rfl⟩, trivial, ⟨rfl, rfl, fun _ => rfl⟩, rfl, .inl rfl,
    .inr ⟨packets, hwhole, rfl⟩⟩

theorem construction_valid : Config.construction.valid = true := by
  unfold Config.construction
  split
  · assumption
  · decide

/-- Settles O13: a construction has no phase, no fault and no line event behind it, and its parameters are valid. -/
theorem invariantHoldsAtReset : Obligations.InvariantHoldsAtReset :=
  ⟨inv_launch (packets := []) construction_valid nofun [], fun _ _ ds hP hwhole => inv_launch hP hwhole ds⟩

/-- A write joins a whole packet to the port and changes nothing else (70_reset R139). -/
theorem inv_of_hostWrite {ws : List Word} {s t : State} (h : hostWrite ws s = .next t) (hs : Inv s) : Inv t := by
  obtain ⟨-, rfl⟩ | ⟨hidle, hws, rfl⟩ := hostWrite_next h
  · exact hs
  · obtain ⟨packets, hwhole, hport⟩ := hs.port.resolve_left (by simp [hidle])
    have hjoined : wholePort { s with port := s.port ++ ws } := by
      refine ⟨packets ++ [ws], ?_, by simp [hport]⟩
      simpa [or_imp, forall_and, hws] using hwhole
    exact ⟨hs.tuning, hs.fault, hs.phase, hs.lines, hs.sensor, hs.armed, .inr hjoined⟩

/-- A reset leaves a construction's state but for the draws and the trace, which `Inv` does not read. -/
theorem inv_of_platformReset {P : Params} {s t : State} (h : platformReset P s = .next t) : Inv t := by
  obtain ⟨hP, rfl⟩ := platformReset_next h
  obtain ⟨htuning, hfault, hphase, hlines, hsensor, harmed, hport⟩ := inv_launch (packets := []) hP nofun []
  exact ⟨htuning, hfault, hphase, hlines, hsensor, harmed, hport⟩

theorem inv_of_applyMove {m : Move} {s t : State} (h : applyMove m s = .next t) (hs : Inv s) : Inv t := by
  cases m with
  | step => exact (steps_of_step h).keeps_inv hs
  | write ws => exact inv_of_hostWrite h hs
  | reset P => exact inv_of_platformReset h

theorem Reachable.inv {s : State} (h : Reachable s) : Inv s := by
  induction h with
  | launched P packets ds hP hwhole => exact inv_launch hP hwhole ds
  | moved m s t _ hmove ih => exact inv_of_applyMove hmove ih

/-! ### No state with the invariant is stuck -/

theorem exists_next_of_linePre {op : Op} {s : State} {body : Result} (h : ∃ t, body = .next t) :
    ∃ t, linePre op s body = .next t := by
  unfold linePre
  split
  · exact ⟨_, rfl⟩
  split
  · exact ⟨_, rfl⟩
  · exact h

theorem exists_next_of_ite {p : Prop} [Decidable p] {a b : Result} (ha : ∃ t, a = .next t) (hb : ∃ t, b = .next t) :
    ∃ t, (if p then a else b) = .next t := by
  split
  · exact ha
  · exact hb

/-- Every command answers a next state when it is taken, in every state (60_exceptions R123). -/
theorem exists_next_exec (i : Instr) (s : State) : ∃ t, exec i s = .next t := by
  cases i with
  | init sel =>
    simp only [exec, execInit]
    split <;> exact ⟨_, rfl⟩
  | powerDown | powerUp => exact exists_next_of_ite ⟨_, rfl⟩ (exists_next_of_ite ⟨_, rfl⟩ ⟨_, rfl⟩)
  | readRawAvg n => exact exists_next_of_linePre (exists_next_of_ite ⟨_, rfl⟩ ⟨_, rfl⟩)
  | readRawUnits | readFilteredUnits => exact exists_next_of_linePre (exists_next_of_ite ⟨_, rfl⟩ ⟨_, rfl⟩)
  | setInputSelect sel =>
    simp only [exec, execSetInputSelect]
    split
    · exact ⟨_, rfl⟩
    · exact exists_next_of_linePre ⟨_, rfl⟩
  | setFilterParams dlow dhigh amin amax db => exact exists_next_of_ite ⟨_, rfl⟩ ⟨_, rfl⟩
  | isReady | readRaw | readFiltered | tare => exact exists_next_of_linePre ⟨_, rfl⟩
  | filterUpdate raw => exact ⟨_, rfl⟩
  | setScale value => exact ⟨_, rfl⟩
  | setOffset value => exact ⟨_, rfl⟩
  | toUnits count => exact ⟨_, rfl⟩

/-- A command that stands in a transaction has a FIX. -/
theorem exists_next_fixStep {c : Instr} {s : State} (h : inTransaction c s) : ∃ t, fixStep c s = .next t := by
  cases c with
  | readRawAvg n => exact exists_next_of_ite ⟨_, rfl⟩ ⟨_, rfl⟩
  | init | setInputSelect | readRaw | readFiltered | tare | readRawUnits | readFilteredUnits => exact ⟨_, rfl⟩
  | _ => exact h.elim

/-- `phaseOk` rules out the positions from which the sequencer stops (log 16). -/
theorem exists_next_advance {c : Instr} {p : Pos} {s : State} (hs : Inv s) (hp : s.phase = .run c p) :
    ∃ t, advance c p s = .next t := by
  have hphase := hs.phase
  simp only [phaseOk, hp] at hphase
  cases p with
  | lines =>
    obtain ⟨sel, rfl, hmode⟩ := hphase
    obtain ⟨m, hm⟩ := Option.ne_none_iff_exists'.1 hmode
    simp only [advance, linesStep, initLines, hm]
    exact ⟨_, rfl⟩
  | hold =>
    obtain ⟨rfl, -⟩ := hphase
    exact ⟨_, rfl⟩
  | wait => exact ⟨_, rfl⟩
  | data i half => cases half <;> exact ⟨_, rfl⟩
  | sample i => exact ⟨_, rfl⟩
  | trail j half => cases half <;> exact ⟨_, rfl⟩
  | fix => exact exists_next_fixStep hphase.1

theorem Inv.exists_next_step {s : State} (hs : Inv s) : ∃ t, step s = .next t := by
  cases hp : s.phase with
  | idle =>
    cases hd : decode s.port with
    | ok packet => rw [step_idle_ok hp hd]; exact exists_next_exec _ _
    | error e => exact ⟨_, step_idle_error hp hd⟩
  | run c p => rw [step_run hp]; exact exists_next_advance hs hp
  | halted => exact ⟨_, step_halted hp⟩

/-- Settles O16: the moves keep the invariant, and the invariant rules out the two stops of a step. -/
theorem everyReachableStateSteps : Obligations.EveryReachableStateSteps :=
  ⟨fun _ => Reachable.inv, fun _ => Inv.exists_next_step⟩

/-! ### STATUS, the clock line and the writers -/

/-- The fault record as a number: `FOPC` from bit 8, `FCAUSE` from bit 1, and `FV` (10_state R35). -/
theorem faultRecord_toNat (opc : Byte) (c : Cause) :
    (faultRecord opc c).toNat = opc.toNat * 2 ^ 8 + c.code.toNat * 2 + 1 :=
  (toNat_append_mul (opc ++ 0#3 ++ c.code) 1#1).trans <| by
    rw [toNat_append_mul (opc ++ 0#3) c.code, toNat_append_mul opc 0#3]
    simp only [BitVec.toNat_ofNat]
    omega

theorem faultRecord_reserved (opc : Byte) (c : Cause) : (faultRecord opc c).extractLsb' 5 3 = 0 := by
  apply BitVec.eq_of_toNat_eq
  have hcode := c.code.isLt
  rw [BitVec.extractLsb'_toNat, faultRecord_toNat, Nat.shiftRight_eq_div_pow, show (0 : BitVec 3).toNat = 0 from rfl]
  omega

theorem Inv.fv_iff {s : State} (hs : Inv s) : s.fv = true ↔ s.phase = .halted := by
  obtain ⟨hp, opc, c, hf⟩ | ⟨hp, hf⟩ := hs.fault
  · simp [State.fv, hf, hp, faultRecord_fv]
  · simp [State.fv, hf, hp]

theorem Inv.freserved_eq_zero {s : State} (hs : Inv s) : s.freserved = 0 := by
  obtain ⟨-, opc, c, hf⟩ | ⟨-, hf⟩ := hs.fault
  · rw [State.freserved, hf, faultRecord_reserved]
  · rw [State.freserved, hf]; rfl

/-- Settles O18: `STATUS` is the view of `phase`, and the invariant ties FAULT to `phase`. -/
theorem statusIsHaltedExactlyWhenFaulted : Obligations.StatusIsHaltedExactlyWhenFaulted := by
  intro s hs
  rw [hs.fv_iff]
  have hreserved := hs.freserved_eq_zero
  cases hp : s.phase with
  | idle => simp [State.status, hp, Status.code, hreserved]
  | run c p => simp [State.status, hp, Status.code, hreserved]
  | halted => simp [State.status, hp, Status.code, hreserved]

/-- Outside a transaction and a power-down, which need the link, the clock line rests (10_state R29). -/
theorem Inv.clk_resting_or_running {s : State} (hs : Inv s) :
    s.clk = restingClk s ∨ (linkUp s ∧ s.phase ≠ .idle ∧ s.phase ≠ .halted) := by
  obtain ⟨hclk, -, -⟩ := hs.lines
  cases hp : s.phase with
  | idle => simp only [expectedClk, hp] at hclk; exact .inl hclk
  | halted => simp only [expectedClk, hp] at hclk; exact .inl hclk
  | run c p =>
    by_cases hlines : p = .lines
    · subst hlines
      simp only [expectedClk, hp] at hclk
      exact .inl hclk
    · refine .inr ⟨?_, nofun, nofun⟩
      by_cases hhold : p = .hold
      · subst hhold
        have hphase := hs.phase
        simp only [phaseOk, hp] at hphase
        exact hphase.2
      · obtain ⟨⟨-, hup, -⟩, -⟩ := hs.transacting hp hlines hhold
        exact hup

/-- `PWR = 1` only once INIT has brought the link up (10_state R27, R28). -/
theorem Inv.link_of_powerDown {s : State} (hs : Inv s) (hdown : s.pwr = .powerDown) : s.link = true := by
  obtain ⟨-, -, hpwr⟩ := hs.lines
  by_contra hoff
  simp [hpwr (by simpa using hoff)] at hdown

/-- Settles O19: the resting level is read off `LINK` and `PWR`, and a step drives the line only by a `ClkSet`. -/
theorem clockLineRestsWherePowerModeSays : Obligations.ClockLineRestsWherePowerModeSays := by
  intro s hs
  obtain ⟨-, hddir, hpwr⟩ := hs.lines
  have hsensor := hs.sensor
  have hrests := hs.clk_resting_or_running
  refine ⟨fun hlink => ⟨?_, hpwr hlink⟩, fun hdown => ?_, fun hstop hlink hnormal => ?_,
    fun t h hne => (steps_of_step h).clk.resolve_left hne, fun hlink => ?_, hddir⟩
  · obtain h | ⟨⟨hup, -⟩, -⟩ := hrests
    · simpa [restingClk, hlink] using h
    · simp [hlink] at hup
  · obtain h | ⟨⟨-, hup⟩, -⟩ := hrests
    · simpa [restingClk, hs.link_of_powerDown hdown, hdown] using h
    · simp [hdown] at hup
  · obtain h | ⟨-, hidle, hhalted⟩ := hrests
    · simpa [restingClk, hlink, hnormal] using h
    · exact absurd hstop (not_or.2 ⟨hidle, hhalted⟩)
  · simpa [sensorOk, hlink] using hsensor

/-! ### Who writes a register -/

theorem op_mem_transactionOps {c : Instr} {s : State} (h : inTransaction c s) : c.op ∈ transactionOps := by
  cases c with
  | init | setInputSelect | readRaw | readRawAvg | readFiltered | tare | readRawUnits | readFilteredUnits =>
    simp [Instr.op, transactionOps]
  | _ => exact h.elim

/-- What each command writes when it is taken: the "written by" column of 10_state R25. -/
theorem Executes.writes {i : Instr} {s t : State} (h : Executes s i t) (r : Reg) : r.same s t ∨ i.op ∈ r.writers := by
  cases h with
  | fails | downAlready | upAlready | begins | beginsSum => exact .inl (by cases r <;> simp [Reg.same])
  | configures _ =>
    cases r with
    | ddir => exact .inr (by simp [Instr.op, Reg.writers])
    | _ => exact .inl (by simp [Reg.same])
  | goesDown _ =>
    cases r with
    | clk => exact .inr (by simp [Instr.op, Reg.writers])
    | _ => exact .inl (by simp [Reg.same])
  | wakes _ _ =>
    cases r with
    | clk | pwr => exact .inr (by simp [Instr.op, Reg.writers])
    | _ => exact .inl (by simp [Reg.same])
  | samples | converts =>
    cases r with
    | res => exact .inr (by simp [Instr.op, Reg.writers])
    | _ => exact .inl (by simp [Reg.same])
  | selects _ _ =>
    cases r with
    | sel => exact .inr (by simp [Instr.op, Reg.writers])
    | _ => exact .inl (by simp [Reg.same])
  | filters raw v =>
    cases r with
    | ema | stable | initF | res => exact .inr (by simp [Instr.op, Reg.writers, filterOps])
    | _ => exact .inl (by simp [Reg.same])
  | tunes db _ =>
    cases r with
    | dlow | dhigh | amin | amax | deadband => exact .inr (by simp [Instr.op, Reg.writers])
    | _ => exact .inl (by simp [Reg.same])
  | scales value =>
    cases r with
    | scale => exact .inr (by simp [Instr.op, Reg.writers])
    | _ => exact .inl (by simp [Reg.same])
  | offsets value =>
    cases r with
    | offset => exact .inr (by simp [Instr.op, Reg.writers])
    | _ => exact .inl (by simp [Reg.same])

/-- What each command writes at the end of a transaction. -/
theorem Finishes.writes {c : Instr} {s t : State} (h : Finishes s c t) (r : Reg) : r.same s t ∨ c.op ∈ r.writers := by
  cases h with
  | discards | sumsOn | convertFails => exact .inl (by cases r <;> simp [Reg.same])
  | reads | means | converts =>
    cases r with
    | res => exact .inr (by simp [Instr.op, Reg.writers])
    | _ => exact .inl (by simp [Reg.same])
  | filters | filterConverts | filterConvertFails =>
    cases r with
    | ema | stable | initF | res => exact .inr (by simp [Instr.op, Reg.writers, filterOps])
    | _ => exact .inl (by simp [Reg.same])
  | tares raw v =>
    cases r with
    | ema | stable | initF | res | offset => exact .inr (by simp [Instr.op, Reg.writers, filterOps])
    | _ => exact .inl (by simp [Reg.same])

/-- Inside a command of the invariant: a transaction's pulses write `CLK`. -/
theorem Advances.writes {c : Instr} {p : Pos} {s t : State} (h : Advances s c p t) (hs : Inv s)
    (hp : s.phase = .run c p) (r : Reg) : r.same s t ∨ c.op ∈ r.writers := by
  cases h with
  | configures _ =>
    cases r with
    | clk | link | pwr | sel => exact .inr (by simp [Instr.op, Reg.writers, transactionOps])
    | _ => exact .inl (by simp [Reg.same])
  | holds =>
    cases r with
    | pwr => exact .inr (by simp [Instr.op, Reg.writers])
    | _ => exact .inl (by simp [Reg.same])
  | pollsOn | startsData | samples => exact .inl (by cases r <;> simp [Reg.same])
  | raises | shifts | raisesTrail | lowersTrail =>
    obtain ⟨⟨-, -, -, hc⟩, -⟩ := hs.transacting hp nofun nofun
    cases r with
    | clk => exact .inr (by simp [Reg.writers, op_mem_transactionOps hc])
    | _ => exact .inl (by simp [Reg.same])
  | finishes hf => exact hf.writes r

theorem currentCommand_of_run {s : State} {c : Instr} {p : Pos} (hp : s.phase = .run c p) :
    currentCommand s = some c := by simp [currentCommand, hp]

theorem currentCommand_of_decode {s : State} {i : Instr} {rest : List Word} (hp : s.phase = .idle)
    (hd : decode s.port = .ok (i, rest)) : currentCommand s = some i := by simp [currentCommand, hp, takePacket, hd]

theorem Steps.writes {s t : State} (h : Steps s t) (hs : Inv s) (r : Reg) :
    r.same s t ∨ ∃ i, currentCommand s = some i ∧ i.op ∈ r.writers := by
  cases h with
  | takes hidle hd he => exact (he.writes r).imp_right fun hw => ⟨_, currentCommand_of_decode hidle hd, hw⟩
  | advances hrun ha => exact (ha.writes hs hrun r).imp_right fun hw => ⟨_, currentCommand_of_run hrun, hw⟩
  | waits | rejects | ignores => exact .inl (by cases r <;> rfl)

/-- Settles O20: each kind of step writes its command's registers, and FAULT only together with HALTED. -/
theorem registersChangeOnlyByTheirWriters : Obligations.RegistersChangeOnlyByTheirWriters := by
  intro s t hs h
  refine ⟨fun r hr => ((steps_of_step h).writes hs r).resolve_left hr, fun hne => ⟨fun hhalted => ?_, ?_⟩⟩
  · rw [step_halted hhalted] at h
    cases h
    exact hne rfl
  · obtain ⟨-, -, hsame | ⟨hhalted, -⟩⟩ := (steps_of_step h).flags
    · exact absurd hsame.symm hne
    · exact hhalted

/-! ### A transaction of a powered sensor, position by position -/

/-- How many steps a transaction under `m` still takes from a position; `k` is the number of polls that will draw 1. -/
def stepsLeft (k : Nat) (m : InputSelect) : Pos → Nat
  | .lines => 0
  | .hold => 0
  | .wait => transactionSteps k m
  | .data i .hi => 3 * (24 - i.val) + 2 * pTrail m + 1
  | .sample i => 3 * (24 - i.val) + 2 * pTrail m
  | .data i .lo => 3 * (24 - i.val) + 2 * pTrail m - 1
  | .trail j .hi => 2 * (pTrail m + 1 - j) + 1
  | .trail j .lo => 2 * (pTrail m + 1 - j)
  | .fix => 1

/-- `n` steps before the end of a transaction of `c` under `m`, the sensor powered and its selection still `a`. -/
def TransactsFor (c : Instr) (m : InputSelect) (a : Option Nat) (n : Nat) (s : State) : Prop :=
  ∃ p k, s.phase = .run c p ∧ p.transacts m ∧ (p = .wait → readyAfter k s) ∧ stepsLeft k m p = n ∧
    s.sel = m ∧ s.sensorPower = some .normal ∧ s.armed = a

theorem transactsFor_beginTransaction (c : Instr) {k : Nat} {s : State} (hready : readyAfter k s)
    (hpower : s.sensorPower = some .normal) :
    TransactsFor c s.sel s.armed (transactionSteps k s.sel) (beginTransaction c s) :=
  ⟨.wait, k, rfl, trivial, fun _ => hready, rfl, rfl, hpower, rfl⟩

theorem afterPulse_ne_wait (i : Fin 24) (m : InputSelect) : afterPulse i m ≠ .wait := by
  unfold afterPulse
  split
  · nofun
  · cases m <;> nofun

/-- After data pulse i the pulses behind it are left, three steps each. -/
theorem stepsLeft_afterPulse (k : Nat) (i : Fin 24) (m : InputSelect) :
    stepsLeft k m (afterPulse i m) = 3 * (23 - i.val) + 2 * pTrail m + 1 := by
  unfold afterPulse
  split
  · simp only [stepsLeft]
    omega
  · have hlast : i.val = 23 := by omega
    cases m <;> simp [afterData, stepsLeft, pTrail, hlast]

/-- A poll that draws 1 leaves one poll less to come. -/
theorem readyAfter_of_succ {k : Nat} {s t : State} (h : readyAfter (k + 1) s) (hpeek : ∀ n, t.peek n = s.peek (n + 1)) :
    readyAfter k t := by
  obtain ⟨hhigh, hlow⟩ := h
  exact ⟨fun j hj => (hpeek j).trans (hhigh (j + 1) (by omega)), (hpeek k).trans hlow⟩

/-- A step inside a transaction, before its FIX, is one step nearer to the end. -/
theorem TransactsFor.exists_step {c : Instr} {m : InputSelect} {a : Option Nat} {n : Nat} {s : State}
    (h : TransactsFor c m a (n + 2) s) : ∃ t, step s = .next t ∧ TransactsFor c m a (n + 1) t := by
  obtain ⟨p, k, hp, hpos, hready, hleft, rfl, hpower, rfl⟩ := h
  have hedge (l : Level) := wake_of_normal (l := l) hpower
  rw [step_run hp]
  cases p with
  | lines | hold => exact hpos.elim
  | wait =>
    cases k with
    | zero =>
      refine ⟨_, congrArg Host.Outcome.next (pollStep_low c (hready rfl).2), .data 0 .hi, 0, rfl, trivial, nofun, ?_, rfl,
        hpower, rfl⟩
      simp only [stepsLeft, transactionSteps, Fin.val_zero] at hleft ⊢
      omega
    | succ k =>
      have hhigh : s.peek 0 = .high := (hready rfl).1 0 (Nat.succ_pos k)
      refine ⟨_, congrArg Host.Outcome.next (pollStep_high c hhigh), .wait, k, rfl, trivial, fun _ => ?_, ?_, rfl, hpower,
        rfl⟩
      · exact readyAfter_of_succ (hready rfl) fun n => (peek_skip s 1 n).trans (by rw [Nat.add_comm])
      · simp only [stepsLeft, transactionSteps] at hleft ⊢
        omega
  | data i half =>
    cases half with
    | hi =>
      refine ⟨_, rfl, .sample i, 0, rfl, trivial, nofun, ?_, rfl, (hedge .high).1, (hedge .high).2⟩
      simp only [stepsLeft] at hleft ⊢
      omega
    | lo =>
      refine ⟨_, rfl, afterPulse i s.sel, 0, rfl, afterPulse_transacts i s.sel, ?_, ?_, rfl, (hedge .low).1,
        (hedge .low).2⟩
      · exact fun hwait => absurd hwait (afterPulse_ne_wait i s.sel)
      · rw [stepsLeft_afterPulse]
        simp only [stepsLeft] at hleft
        omega
  | sample i =>
    refine ⟨_, rfl, .data i .lo, 0, rfl, trivial, nofun, ?_, rfl, hpower, rfl⟩
    simp only [stepsLeft] at hleft ⊢
    omega
  | trail j half =>
    obtain ⟨hfirst, hlast⟩ := hpos
    cases half with
    | hi =>
      refine ⟨_, rfl, .trail j .lo, 0, rfl, ⟨hfirst, hlast⟩, nofun, ?_, rfl, (hedge .high).1, (hedge .high).2⟩
      simp only [stepsLeft] at hleft ⊢
      omega
    | lo =>
      by_cases hmore : j < pTrail s.sel
      · refine ⟨_, rfl, .trail (j + 1) .hi, 0, by simp [trailLow, hmore], ⟨by omega, hmore⟩, nofun, ?_, rfl,
          (hedge .low).1, (hedge .low).2⟩
        simp only [stepsLeft] at hleft ⊢
        omega
      · refine ⟨_, rfl, .fix, 0, by simp [trailLow, hmore], trivial, nofun, ?_, rfl, (hedge .low).1, (hedge .low).2⟩
        simp only [stepsLeft] at hleft ⊢
        omega
  | fix => simp [stepsLeft] at hleft

/-- Only FIX is the last step of a transaction. -/
theorem TransactsFor.last {c : Instr} {m : InputSelect} {a : Option Nat} {s : State} (h : TransactsFor c m a 1 s) :
    s.phase = .run c .fix ∧ s.sel = m := by
  obtain ⟨p, k, hp, hpos, -, hleft, hm, -, -⟩ := h
  refine ⟨?_, hm⟩
  cases p with
  | lines | hold => exact hpos.elim
  | wait => simp only [stepsLeft, transactionSteps] at hleft; omega
  | data i half => cases half <;> simp only [stepsLeft] at hleft <;> omega
  | sample i => simp only [stepsLeft] at hleft; omega
  | trail j half =>
    obtain ⟨-, hlast⟩ := hpos
    cases half <;> simp only [stepsLeft] at hleft <;> omega
  | fix => exact hp

/-- Up to its FIX a transaction keeps the selection it began with (41_acquisition R92). -/
theorem TransactsFor.exists_run {c : Instr} {m : InputSelect} {a : Option Nat} {j n : Nat} {s : State}
    (h : TransactsFor c m a (j + n + 1) s) : ∃ t, run j s = .next t ∧ TransactsFor c m a (n + 1) t := by
  induction j generalizing s with
  | zero => exact ⟨s, run_zero s, by simpa using h⟩
  | succ j ih =>
    rw [show j + 1 + n + 1 = j + n + 2 by omega] at h
    obtain ⟨u, hu, hnext⟩ := h.exists_step
    rw [run_succ_next hu]
    exact ih hnext

theorem TransactsFor.armed {c : Instr} {m : InputSelect} {a : Option Nat} {n : Nat} {s : State}
    (h : TransactsFor c m a n s) : s.armed = a := by
  obtain ⟨_, _, _, _, _, _, _, _, ha⟩ := h
  exact ha

/-- FIX arms the trailing pulses of `SEL` (10_state R41). -/
theorem armed_of_fix {c : Instr} {s t : State} (hp : s.phase = .run c .fix) (h : step s = .next t) :
    t.armed = some (pTrail s.sel) := by
  rw [step_run hp] at h
  cases advances_of_advance h with
  | finishes hf => exact hf.armed

/-- Settles O32: a transaction of a powered sensor counts down to its FIX, and no step before that arms or wakes. -/
theorem selectionTakesEffectOneTransactionLate : Obligations.SelectionTakesEffectOneTransactionLate := by
  refine ⟨fun s t h hne => (steps_of_step h).armed.resolve_left hne, fun c k s hready hpower => ?_⟩
  have hbegin := transactsFor_beginTransaction c hready hpower
  obtain ⟨n, hn⟩ : ∃ n, transactionSteps k s.sel = n + 1 := ⟨k + 1 + 72 + 2 * pTrail s.sel, rfl⟩
  rw [hn] at hbegin ⊢
  refine ⟨fun j t hj h => ?_, fun t h => ?_⟩
  · rw [show n + 1 = j + (n - j) + 1 by omega] at hbegin
    obtain ⟨u, hu, hmid⟩ := hbegin.exists_run
    cases hu.symm.trans h
    exact hmid.armed
  · obtain ⟨u, hu, hlast⟩ := TransactsFor.exists_run (j := n) (n := 0) hbegin
    obtain ⟨hfix, hsel⟩ := hlast.last
    rw [run_add hu, run_one] at h
    rw [← hsel]
    exact armed_of_fix hfix h

/-! ### Waking, taking a packet, reading -/

theorem exec_powerUp_of_down {s : State} (hlink : s.link = true) (hdown : s.pwr = .powerDown) :
    exec .powerUp s = .next (goto .idle { clkSet .low s with pwr := .normal }) := by
  simp [exec, execPowerUp, hlink, hdown]

/-- Settles O56: `PWR = 1` means the link is up and the clock line high, so POWER_UP's edge is a wake. -/
theorem wakeForgetsTheSelection : Obligations.WakeForgetsTheSelection := by
  intro s t hs hidle hdown h
  have hlink := hs.link_of_powerDown hdown
  rw [exec_powerUp_of_down hlink hdown] at h
  cases h
  obtain ⟨hpower, harmed⟩ := (hs.atRest (.inl hidle)).wakes hlink hdown
  exact ⟨hpower, harmed, rfl⟩

/-- Settles O7: the decoder reads back the packet it is given; the other two phases are the step's own. -/
theorem stepRunsTheDecodedCommand : Obligations.StepRunsTheDecodedCommand := by
  intro s
  refine ⟨fun i rest hidle hport hwf => ?_, fun c p hp => step_run hp, fun hhalted => step_halted hhalted⟩
  exact step_idle_ok hidle (hport ▸ decode_encode_append hwf rest)

theorem hostRead_res_of_none {s : State} (h : s.res = none) : hostRead .res s = .error .resNoValue := by
  simp [hostRead, h]

theorem hostRead_res_of_some {s : State} {v : Word} (h : s.res = some v) : hostRead .res s = .ok v := by
  simp [hostRead, h]

/-- Settles O57: a read of RES follows whether RES is written, and the other two are zero-extended. -/
theorem hostReadsThreeRegisters : Obligations.HostReadsThreeRegisters :=
  fun _ => ⟨hostRead_res_of_none, fun _ => hostRead_res_of_some, rfl, rfl⟩

/-! ### What no step reads -/

/-- `f` forgets nothing that a command or the sequencer reads, and keeps the phase and the port. -/
structure Forgets (f : State → State) : Prop where
  phase (s : State) : (f s).phase = s.phase
  port (s : State) : (f s).port = s.port
  take (s : State) (ws : List Word) : { f s with port := ws } = f { s with port := ws }
  idem (s : State) : f (f s) = f s
  fault (opc : Byte) (c : Cause) (s : State) : f (raiseFault opc c (f s)) = f (raiseFault opc c s)
  exec (i : Instr) (s : State) : mapNext f (exec i (f s)) = mapNext f (exec i s)
  advance {c : Instr} {p : Pos} {s : State} (hp : s.phase = .run c p) :
    mapNext f (advance c p (f s)) = mapNext f (advance c p s)

theorem Forgets.noPacket {f : State → State} (hf : Forgets f) (e : DecodeError) (s : State) :
    f (noPacket e (f s)) = f (noPacket e s) := by
  have hillegal : f (illegalHeader (f s)) = f (illegalHeader s) := by
    simp only [illegalHeader, hf.port, hf.take]
    exact hf.fault _ _ _
  cases e with
  | noHeader | missingArguments => exact hf.idem s
  | unknownOpcode | reservedBits | illegalSelect => exact hillegal

theorem Forgets.step_forget {f : State → State} (hf : Forgets f) (s : State) :
    mapNext f (step (f s)) = mapNext f (step s) := by
  cases hp : s.phase with
  | idle =>
    have hpf := (hf.phase s).trans hp
    cases hd : decode s.port with
    | ok packet =>
      rw [step_idle_ok hp hd, step_idle_ok hpf (by rw [hf.port, hd]), hf.take]
      exact hf.exec _ _
    | error e =>
      rw [step_idle_error hp hd, step_idle_error hpf (by rw [hf.port, hd])]
      exact congrArg Host.Outcome.next (hf.noPacket e s)
  | run c p =>
    rw [step_run hp, step_run ((hf.phase s).trans hp)]
    exact hf.advance hp
  | halted =>
    rw [step_halted hp, step_halted ((hf.phase s).trans hp)]
    simp only [ignoreWord, hf.port, hf.take]
    exact congrArg Host.Outcome.next (hf.idem _)

/-- States that differ only in what is forgotten step alike. -/
theorem Forgets.step_eq {f : State → State} (hf : Forgets f) {s t : State} (h : f s = f t) :
    mapNext f (step s) = mapNext f (step t) := by
  rw [← hf.step_forget s, h, hf.step_forget t]

theorem mapNext_ite {p q : Prop} [Decidable p] [Decidable q] {f : State → State} {a a' b b' : Result} (hpq : p ↔ q)
    (ha : mapNext f a = mapNext f a') (hb : mapNext f b = mapNext f b') :
    mapNext f (if p then a else b) = mapNext f (if q then a' else b') := by
  by_cases hp : p
  · rw [if_pos hp, if_pos (hpq.1 hp), ha]
  · rw [if_neg hp, if_neg (mt hpq.2 hp), hb]

theorem mapNext_linePre {op : Op} {f : State → State} {s t : State} {a b : Result} (hlink : s.link = t.link)
    (hpwr : s.pwr = t.pwr) (hfault : ∀ c, f (raiseFault op.opcode c s) = f (raiseFault op.opcode c t))
    (hbody : mapNext f a = mapNext f b) : mapNext f (linePre op s a) = mapNext f (linePre op t b) :=
  mapNext_ite (by rw [hlink]) (congrArg Host.Outcome.next (hfault _))
    (mapNext_ite (by rw [hpwr]) (congrArg Host.Outcome.next (hfault _)) hbody)

theorem mapNext_respondUnits {op : Op} {f : State → State} {s t : State} {count : Int}
    (hunits : toUnitsP count s = toUnitsP count t) (hok : ∀ q, f (goto .idle (respond q s)) = f (goto .idle (respond q t)))
    (hfault : ∀ c, f (raiseFault op.opcode c s) = f (raiseFault op.opcode c t)) :
    mapNext f (respondUnits op count s) = mapNext f (respondUnits op count t) := by
  unfold respondUnits
  rw [hunits]
  cases toUnitsP count t with
  | ok q => exact congrArg Host.Outcome.next (hok q)
  | error c => exact congrArg Host.Outcome.next (hfault c)

theorem mapNext_isReady {f : State → State} {s t : State} (hlink : s.link = t.link) (hpwr : s.pwr = t.pwr)
    (hpeek : s.peek 0 = t.peek 0)
    (hfault : ∀ c, f (raiseFault Op.isReady.opcode c s) = f (raiseFault Op.isReady.opcode c t))
    (hnext : ∀ v d, f (goto .idle (respond v (record (.sample d) (s.skip 1)))) =
      f (goto .idle (respond v (record (.sample d) (t.skip 1))))) :
    mapNext f (exec .isReady s) = mapNext f (exec .isReady t) := by
  refine mapNext_linePre hlink hpwr hfault ?_
  rw [dataSample_eq, dataSample_eq, hpeek]
  exact congrArg Host.Outcome.next (hnext _ _)

/-! #### The trace and the ghosts -/

theorem filterUpdateP_forgetObserved (raw : Int) (s : State) :
    filterUpdateP raw (forgetObserved s) = ((filterUpdateP raw s).1, forgetObserved (filterUpdateP raw s).2) := by
  cases hi : s.initF with
  | false => rw [filterUpdateP_seed raw hi, filterUpdateP_seed (s := forgetObserved s) raw hi]; rfl
  | true => rw [filterUpdateP_next raw hi, filterUpdateP_next (s := forgetObserved s) raw hi]; rfl

theorem exec_forgetObserved (i : Instr) (s : State) :
    mapNext forgetObserved (exec i (forgetObserved s)) = mapNext forgetObserved (exec i s) := by
  cases i with
  | init sel =>
    simp only [exec, execInit]
    split <;> rfl
  | powerDown | powerUp => exact mapNext_ite Iff.rfl rfl (mapNext_ite Iff.rfl rfl rfl)
  | isReady => exact mapNext_isReady rfl rfl rfl (fun _ => rfl) (fun _ _ => rfl)
  | readRaw | readFiltered | tare => exact mapNext_linePre rfl rfl (fun _ => rfl) rfl
  | readRawAvg | readRawUnits | readFilteredUnits =>
    exact mapNext_linePre rfl rfl (fun _ => rfl) (mapNext_ite Iff.rfl rfl rfl)
  | setInputSelect sel =>
    simp only [exec, execSetInputSelect]
    split
    · rfl
    · exact mapNext_linePre rfl rfl (fun _ => rfl) rfl
  | filterUpdate raw =>
    simp only [exec, execFilterUpdate, filterUpdateP_forgetObserved]
    rfl
  | setFilterParams dlow dhigh amin amax db => exact mapNext_ite Iff.rfl rfl rfl
  | setScale | setOffset => rfl
  | toUnits count => exact mapNext_respondUnits rfl (fun _ => rfl) (fun _ => rfl)

theorem afterTransaction_forgetObserved (c : Instr) (code : Word) (s : State) :
    mapNext forgetObserved (afterTransaction c code (forgetObserved s)) =
      mapNext forgetObserved (afterTransaction c code s) := by
  cases c with
  | readRawAvg n => exact mapNext_ite Iff.rfl rfl rfl
  | readFiltered =>
    simp only [afterTransaction, finishReadFiltered, filterUpdateP_forgetObserved]
    rfl
  | tare =>
    simp only [afterTransaction, finishTare, filterUpdateP_forgetObserved]
    rfl
  | readRawUnits => exact mapNext_respondUnits rfl (fun _ => rfl) (fun _ => rfl)
  | readFilteredUnits =>
    simp only [afterTransaction, finishReadFilteredUnits, filterUpdateP_forgetObserved]
    exact mapNext_respondUnits rfl (fun _ => rfl) (fun _ => rfl)
  | _ => rfl

theorem forgets_forgetObserved : Forgets forgetObserved where
  phase _ := rfl
  port _ := rfl
  take _ _ := rfl
  idem _ := rfl
  fault _ _ _ := rfl
  exec := exec_forgetObserved
  advance {c p s} hp := by
    cases p with
    | lines =>
      cases c with
      | init sel =>
        simp only [advance, linesStep, initLines]
        split <;> rfl
      | _ => rfl
    | hold => cases c <;> rfl
    | wait =>
      refine congrArg Host.Outcome.next ?_
      cases hd : s.peek 0 with
      | low => rw [pollStep_low c hd, pollStep_low (s := forgetObserved s) c hd]; rfl
      | high => rw [pollStep_high c hd, pollStep_high (s := forgetObserved s) c hd]; rfl
    | data i half => cases half <;> rfl
    | sample i => rfl
    | trail j half => cases half <;> rfl
    | fix =>
      exact (afterTransaction_forgetObserved c (rawCode s.shreg)
          { forgetObserved s with armed := some (pTrail s.sel) }).symm.trans
        (afterTransaction_forgetObserved c (rawCode s.shreg) { s with armed := some (pTrail s.sel) })

/-- Settles O24: every check, every position and every value written is the same under forgotten ghosts and trace. -/
theorem traceAndGhostsAreNeverRead : Obligations.TraceAndGhostsAreNeverRead :=
  fun _ _ h => forgets_forgetObserved.step_eq h

/-! #### The unseeded filter -/

theorem forgetUnseeded_of_seeded {s : State} (hi : s.initF = true) : forgetUnseeded s = s := by simp [forgetUnseeded, hi]

theorem forgetUnseeded_of_unseeded {s : State} (hi : s.initF = false) :
    forgetUnseeded s = { s with ema := 0, stable := 0 } := by simp [forgetUnseeded, hi]

/-- Two states without a seed that agree but for `EMA` and `STABLE`. -/
theorem forgetUnseeded_congr {s t : State} (hi : s.initF = false)
    (h : t = { s with ema := t.ema, stable := t.stable }) : forgetUnseeded t = forgetUnseeded s := by
  have ht : t.initF = false := by rw [h]; exact hi
  rw [forgetUnseeded_of_unseeded hi, forgetUnseeded_of_unseeded ht, h]

theorem mapNext_forgetUnseeded_congr {s t : State} (hi : s.initF = false)
    (h : t = { s with ema := t.ema, stable := t.stable }) :
    mapNext forgetUnseeded (.next t) = mapNext forgetUnseeded (.next s) :=
  congrArg Host.Outcome.next (forgetUnseeded_congr hi h)

/-- The first update writes both registers and reads neither (42_filter R97). -/
theorem filterUpdateP_of_unseeded {s : State} (hi : s.initF = false) (raw : Int) (e b : Word) :
    filterUpdateP raw { s with ema := e, stable := b } = filterUpdateP raw s := by
  rw [filterUpdateP_seed raw hi, filterUpdateP_seed (s := { s with ema := e, stable := b }) raw hi]

theorem exec_of_unseeded {s : State} (hi : s.initF = false) (i : Instr) (e b : Word) :
    mapNext forgetUnseeded (exec i { s with ema := e, stable := b }) = mapNext forgetUnseeded (exec i s) := by
  have hnext {u t : State} (hu : u.initF = false) (h : t = { u with ema := t.ema, stable := t.stable }) :=
    mapNext_forgetUnseeded_congr hu h
  have hpre {op : Op} {x y : Result} (h : mapNext forgetUnseeded x = mapNext forgetUnseeded y) :
      mapNext forgetUnseeded (linePre op { s with ema := e, stable := b } x) = mapNext forgetUnseeded (linePre op s y) :=
    mapNext_linePre rfl rfl (fun _ => forgetUnseeded_congr hi rfl) h
  cases i with
  | init sel =>
    simp only [exec, execInit]
    split <;> exact hnext hi rfl
  | powerDown | powerUp => exact mapNext_ite Iff.rfl (hnext hi rfl) (mapNext_ite Iff.rfl (hnext hi rfl) (hnext hi rfl))
  | isReady =>
    exact mapNext_isReady rfl rfl rfl (fun _ => forgetUnseeded_congr hi rfl)
      (fun _ _ => forgetUnseeded_congr (by simp [hi]) rfl)
  | readRaw | readFiltered | tare => exact hpre (hnext hi rfl)
  | readRawAvg | readRawUnits | readFilteredUnits =>
    exact hpre (mapNext_ite Iff.rfl (hnext hi rfl) (hnext hi rfl))
  | setInputSelect sel =>
    simp only [exec, execSetInputSelect]
    split
    · exact hnext hi rfl
    · exact hpre (hnext hi rfl)
  | filterUpdate raw => simp only [exec, execFilterUpdate, filterUpdateP_of_unseeded hi]
  | setFilterParams dlow dhigh amin amax db => exact mapNext_ite Iff.rfl (hnext hi rfl) (hnext hi rfl)
  | setScale | setOffset => exact hnext hi rfl
  | toUnits count =>
    exact mapNext_respondUnits rfl (fun _ => forgetUnseeded_congr hi rfl) (fun _ => forgetUnseeded_congr hi rfl)

theorem afterTransaction_of_unseeded {s : State} (hi : s.initF = false) (c : Instr) (code : Word) (e b : Word) :
    mapNext forgetUnseeded (afterTransaction c code { s with ema := e, stable := b }) =
      mapNext forgetUnseeded (afterTransaction c code s) := by
  have hnext {u t : State} (hu : u.initF = false) (h : t = { u with ema := t.ema, stable := t.stable }) :=
    mapNext_forgetUnseeded_congr hu h
  cases c with
  | init | setInputSelect | readRaw => exact hnext hi rfl
  | readRawAvg n => exact mapNext_ite Iff.rfl (hnext hi rfl) (hnext hi rfl)
  | readFiltered => simp only [afterTransaction, finishReadFiltered, filterUpdateP_of_unseeded hi]
  | tare => simp only [afterTransaction, finishTare, filterUpdateP_of_unseeded hi]
  | readRawUnits =>
    exact mapNext_respondUnits rfl (fun _ => forgetUnseeded_congr hi rfl) (fun _ => forgetUnseeded_congr hi rfl)
  | readFilteredUnits => simp only [afterTransaction, finishReadFilteredUnits, filterUpdateP_of_unseeded hi]
  | _ => rfl

theorem advance_of_unseeded {s : State} (hi : s.initF = false) (c : Instr) (p : Pos) (e b : Word) :
    mapNext forgetUnseeded (advance c p { s with ema := e, stable := b }) = mapNext forgetUnseeded (advance c p s) := by
  have hnext {u t : State} (hu : u.initF = false) (h : t = { u with ema := t.ema, stable := t.stable }) :=
    mapNext_forgetUnseeded_congr hu h
  cases p with
  | lines =>
    cases c with
    | init sel =>
      simp only [advance, linesStep, initLines]
      split
      · rfl
      · exact hnext hi rfl
    | _ => rfl
  | hold =>
    cases c with
    | powerDown => exact hnext hi rfl
    | _ => rfl
  | wait =>
    refine congrArg Host.Outcome.next ?_
    cases hd : s.peek 0 with
    | low =>
      rw [pollStep_low c hd, pollStep_low (s := { s with ema := e, stable := b }) c hd]
      exact forgetUnseeded_congr hi rfl
    | high =>
      rw [pollStep_high c hd, pollStep_high (s := { s with ema := e, stable := b }) c hd]
      exact forgetUnseeded_congr hi rfl
  | data i half => cases half <;> exact hnext hi rfl
  | sample i => exact hnext hi rfl
  | trail j half => cases half <;> exact hnext hi rfl
  | fix => exact afterTransaction_of_unseeded (s := { s with armed := some (pTrail s.sel) }) hi c (rawCode s.shreg) e b

/-- A fact about every state follows from the states without a seed: of the others nothing is forgotten. -/
theorem forgetUnseeded_induction {motive : State → State → Prop} {s : State} (hseeded : motive s s)
    (hunseeded : s.initF = false → motive { s with ema := 0, stable := 0 } s) : motive (forgetUnseeded s) s := by
  cases hi : s.initF with
  | true => rw [forgetUnseeded_of_seeded hi]; exact hseeded
  | false => rw [forgetUnseeded_of_unseeded hi]; exact hunseeded hi

theorem forgets_forgetUnseeded : Forgets forgetUnseeded where
  phase s := forgetUnseeded_induction (motive := fun u s => u.phase = s.phase) rfl fun _ => rfl
  port s := forgetUnseeded_induction (motive := fun u s => u.port = s.port) rfl fun _ => rfl
  take s ws := by
    unfold forgetUnseeded
    split <;> rfl
  idem s := forgetUnseeded_induction (motive := fun u s => forgetUnseeded u = forgetUnseeded s) rfl
    fun hi => forgetUnseeded_congr hi rfl
  fault opc c s :=
    forgetUnseeded_induction (motive := fun u s => forgetUnseeded (raiseFault opc c u) = forgetUnseeded (raiseFault opc c s))
      rfl fun hi => forgetUnseeded_congr hi rfl
  exec i s :=
    forgetUnseeded_induction (motive := fun u s => mapNext forgetUnseeded (exec i u) = mapNext forgetUnseeded (exec i s))
      rfl fun hi => exec_of_unseeded hi i 0 0
  advance {c p s} _ :=
    forgetUnseeded_induction
      (motive := fun u s => mapNext forgetUnseeded (advance c p u) = mapNext forgetUnseeded (advance c p s))
      rfl fun hi => advance_of_unseeded hi c p 0 0

/-- Settles O26: without a seed the filter writes `EMA` and `STABLE`, and no other meaning reads them. -/
theorem unseededFilterIsNeverRead : Obligations.UnseededFilterIsNeverRead :=
  fun _ _ h => forgets_forgetUnseeded.step_eq h

/-! #### Scratch registers not in use -/

theorem if_congr_of {α : Type} {b : Bool} {x y z : α} (h : b = true → x = y) :
    (if b then x else z) = if b then y else z := by
  split
  · next hb => exact h hb
  · rfl

/-- Two states that agree on all but scratch, and on the scratch that is in use. -/
theorem forgetScratch_congr {s t : State} (h : t = { s with shreg := t.shreg, sbit := t.sbit, acc := t.acc, cnt := t.cnt })
    (hshreg : usesShreg s = true → t.shreg = s.shreg) (hsbit : usesBit s = true → t.sbit = s.sbit)
    (hsum : usesSum s = true → t.acc = s.acc ∧ t.cnt = s.cnt) : forgetScratch t = forgetScratch s := by
  have hphase : t.phase = s.phase := by rw [h]
  have h1 : usesShreg t = usesShreg s := by simp only [usesShreg, hphase]
  have h2 : usesBit t = usesBit s := by simp only [usesBit, hphase]
  have h3 : usesSum t = usesSum s := by simp only [usesSum, hphase]
  unfold forgetScratch
  rw [h1, h2, h3]
  rw [h]
  congr 1
  · exact if_congr_of hshreg
  · exact if_congr_of hsbit
  · exact if_congr_of fun hu => (hsum hu).1
  · exact if_congr_of fun hu => (hsum hu).2

theorem forgetScratch_shreg {s : State} (h : usesShreg s = true) : (forgetScratch s).shreg = s.shreg := if_pos h

theorem forgetScratch_sbit {s : State} (h : usesBit s = true) : (forgetScratch s).sbit = s.sbit := if_pos h

theorem forgetScratch_sum {s : State} (h : usesSum s = true) :
    (forgetScratch s).acc = s.acc ∧ (forgetScratch s).cnt = s.cnt := ⟨if_pos h, if_pos h⟩

/-- The filter neither reads nor writes scratch. -/
theorem filterUpdateP_scratch (raw : Int) (s : State) (v : BitVec 24) (b : Level) (a : Nat) (n : BitVec 16) :
    filterUpdateP raw { s with shreg := v, sbit := b, acc := a, cnt := n } =
      ((filterUpdateP raw s).1, { (filterUpdateP raw s).2 with shreg := v, sbit := b, acc := a, cnt := n }) := by
  obtain hi | hi := Bool.eq_false_or_eq_true s.initF
  · rw [filterUpdateP_next raw hi,
      filterUpdateP_next (s := { s with shreg := v, sbit := b, acc := a, cnt := n }) raw hi]
    rfl
  · rw [filterUpdateP_seed raw hi,
      filterUpdateP_seed (s := { s with shreg := v, sbit := b, acc := a, cnt := n }) raw hi]

/-- A command that is taken reads no scratch register; READ_RAW_AVG writes `ACC` and `CNT` first (41_acquisition R94). -/
theorem exec_scratch (i : Instr) (s : State) (v : BitVec 24) (b : Level) (a : Nat) (n : BitVec 16) :
    mapNext forgetScratch (exec i { s with shreg := v, sbit := b, acc := a, cnt := n }) =
      mapNext forgetScratch (exec i s) := by
  have hpre {op : Op} {x y : Result} (h : mapNext forgetScratch x = mapNext forgetScratch y) :
      mapNext forgetScratch (linePre op { s with shreg := v, sbit := b, acc := a, cnt := n } x) =
        mapNext forgetScratch (linePre op s y) :=
    mapNext_linePre rfl rfl (fun _ => rfl) h
  cases i with
  | init sel =>
    simp only [exec, execInit]
    split <;> rfl
  | powerDown | powerUp => exact mapNext_ite Iff.rfl rfl (mapNext_ite Iff.rfl rfl rfl)
  | isReady => exact mapNext_isReady rfl rfl rfl (fun _ => rfl) (fun _ _ => rfl)
  | readRaw | readFiltered | tare => exact hpre rfl
  | readRawAvg | readRawUnits | readFilteredUnits => exact hpre (mapNext_ite Iff.rfl rfl rfl)
  | setInputSelect sel =>
    simp only [exec, execSetInputSelect]
    split
    · rfl
    · exact hpre rfl
  | filterUpdate raw => simp only [exec, execFilterUpdate, filterUpdateP_scratch]; rfl
  | setFilterParams dlow dhigh amin amax db => exact mapNext_ite Iff.rfl rfl rfl
  | setScale | setOffset => rfl
  | toUnits count => exact mapNext_respondUnits rfl (fun _ => rfl) (fun _ => rfl)

/-- After its transaction only READ_RAW_AVG reads scratch, its own `ACC` and `CNT`. -/
theorem afterTransaction_scratch (c : Instr) (code : Word) (s : State) (v : BitVec 24) (b : Level) {a : Nat} {n : BitVec 16}
    (hsum : c.op = .readRawAvg → a = s.acc ∧ n = s.cnt) :
    mapNext forgetScratch (afterTransaction c code { s with shreg := v, sbit := b, acc := a, cnt := n }) =
      mapNext forgetScratch (afterTransaction c code s) := by
  cases c with
  | readRawAvg m =>
    obtain ⟨rfl, rfl⟩ := hsum rfl
    exact mapNext_ite Iff.rfl rfl rfl
  | readFiltered => simp only [afterTransaction, finishReadFiltered, filterUpdateP_scratch]; rfl
  | tare => simp only [afterTransaction, finishTare, filterUpdateP_scratch]; rfl
  | readRawUnits => exact mapNext_respondUnits rfl (fun _ => rfl) (fun _ => rfl)
  | readFilteredUnits =>
    simp only [afterTransaction, finishReadFilteredUnits, filterUpdateP_scratch]
    exact mapNext_respondUnits rfl (fun _ => rfl) (fun _ => rfl)
  | _ => rfl

/-- A position reads the scratch registers in use there, and no other. -/
theorem advance_forgetScratch {c : Instr} {p : Pos} {s : State} (hp : s.phase = .run c p) :
    mapNext forgetScratch (advance c p (forgetScratch s)) = mapNext forgetScratch (advance c p s) := by
  have hsum (hu : (c.op == .readRawAvg) = true) : (forgetScratch s).acc = s.acc ∧ (forgetScratch s).cnt = s.cnt :=
    forgetScratch_sum (by simpa [usesSum, hp] using hu)
  have hshreg (hu : p.usesShreg = true) : (forgetScratch s).shreg = s.shreg :=
    forgetScratch_shreg (by simp [usesShreg, hp, hu])
  have hsbit (hu : p.usesBit = true) : (forgetScratch s).sbit = s.sbit :=
    forgetScratch_sbit (by simp [usesBit, hp, hu])
  cases p with
  | lines =>
    cases c with
    | init sel =>
      simp only [advance, linesStep, initLines]
      split <;> rfl
    | _ => rfl
  | hold => cases c <;> rfl
  | wait =>
    refine congrArg Host.Outcome.next ?_
    cases hd : s.peek 0 with
    | low =>
      rw [pollStep_low c hd, pollStep_low (s := forgetScratch s) c hd]
      exact forgetScratch_congr rfl (fun _ => rfl) nofun hsum
    | high =>
      rw [pollStep_high c hd, pollStep_high (s := forgetScratch s) c hd]
      exact forgetScratch_congr rfl nofun nofun hsum
  | data i half =>
    cases half with
    | hi => exact congrArg Host.Outcome.next (forgetScratch_congr rfl (fun _ => hshreg rfl) nofun hsum)
    | lo =>
      have hshift : shiftBit (forgetScratch s).shreg (forgetScratch s).sbit = shiftBit s.shreg s.sbit := by
        rw [hshreg rfl, hsbit rfl]
      exact congrArg Host.Outcome.next (forgetScratch_congr rfl (fun _ => hshift) (fun _ => hsbit rfl) hsum)
  | sample i =>
    exact congrArg Host.Outcome.next
      (forgetScratch_congr rfl (fun _ => hshreg rfl) (fun _ => rfl) hsum)
  | trail j half =>
    cases half with
    | hi => exact congrArg Host.Outcome.next (forgetScratch_congr rfl (fun _ => hshreg rfl) nofun hsum)
    | lo =>
      refine congrArg Host.Outcome.next (forgetScratch_congr rfl (fun _ => hshreg rfl) (fun hu => ?_) hsum)
      by_cases hmore : j < pTrail s.sel <;> simp [usesBit, trailLow, hmore, Pos.usesBit] at hu
  | fix =>
    have hcode : rawCode (forgetScratch s).shreg = rawCode s.shreg := by rw [hshreg rfl]
    simp only [advance, fixStep, hcode]
    exact afterTransaction_scratch c (rawCode s.shreg) { s with armed := some (pTrail s.sel) } _ _
      fun hc => hsum (by simp [hc])

theorem forgets_forgetScratch : Forgets forgetScratch where
  phase _ := rfl
  port _ := rfl
  take _ _ := rfl
  idem _ := forgetScratch_congr rfl forgetScratch_shreg forgetScratch_sbit forgetScratch_sum
  fault _ _ _ := rfl
  exec i s := exec_scratch i s _ _ _ _
  advance := advance_forgetScratch

/-- Settles O25: each position reads the scratch in use there, and a transaction or a sum begins with a write. -/
theorem scratchIsNeverReadBeforeWritten : Obligations.ScratchIsNeverReadBeforeWritten :=
  fun _ _ h => forgets_forgetScratch.step_eq h

end Sys2Proof.Machine
end

section
/-! SUPPORT. The lines and the port (20_memory): one line event a step (R53, R54), the order of the sampled bits (R45), bytes on a
byte-wide bus (R46), and which words the port takes (R44, R47). -/

namespace Sys2Proof

/-! ### Packets and their words -/

/-- A command's packet has its format's number of words (30_encoding R68). -/
theorem length_encode (i : Instr) : (encode i).length = i.op.format.words := by cases i <;> rfl

/-- A header is judged before its argument words, and with too few of them behind it nothing is assembled (20_memory R47). -/
theorem assemble_of_short {op : Op} {ws : List Word} (h : Word) (hshort : ws.length + 1 < op.format.words) :
    assemble op h ws = .error .missingArguments := by
  cases op with
  | filterUpdate | setScale | setOffset | toUnits =>
    cases ws with
    | nil => rfl
    | cons a r => exact absurd hshort (by simp [Op.format, Format.words])
  | setFilterParams =>
    match ws, hshort with
    | [], _ | [_], _ | [_, _], _ => rfl
    | _ :: _ :: _ :: _, hshort => exact absurd hshort (by simp [Op.format, Format.words])
  | _ => exact absurd hshort (by simp [Op.format, Format.words])

/-! ### Bytes on a byte-wide bus -/

/-- The bus bytes `bs` carry the words `ws`: byte k of word j stands at the place `lane k` of the j-th group of four
(20_memory R46). -/
def Carries (lane : Fin 4 → Fin 4) (bs : List Byte) (ws : List Word) : Prop :=
  bs.length = 4 * ws.length ∧
    ∀ j, j < ws.length → ∀ k : Fin 4,
      bs.getD (4 * j + (lane k).val) 0 = (ws.getD j 0).extractLsb' (8 * k.val) 8

/-- A word is put together from its own four bytes, wherever they stood on the bus. -/
theorem wordOfBytes_eq {lane : Fin 4 → Fin 4} {b : Fin 4 → Byte} {w : Word}
    (h : ∀ k, b (lane k) = w.extractLsb' (8 * k.val) 8) : wordOfBytes lane b = w := by
  have hw := w.isLt
  apply BitVec.eq_of_toNat_eq
  have hnum : (wordOfBytes lane b).toNat =
      (((b (lane 3)).toNat * 2 ^ 8 + (b (lane 2)).toNat) * 2 ^ 8 + (b (lane 1)).toNat) * 2 ^ 8 + (b (lane 0)).toNat := by
    rw [← toNat_append_mul, ← toNat_append_mul, ← toNat_append_mul]
    rfl
  simp only [hnum, h, extract_toNat]
  norm_num
  omega

/-- The first four bytes carry the first word, and the bytes behind them the words behind it. -/
theorem carries_cons_iff {lane : Fin 4 → Fin 4} {b0 b1 b2 b3 : Byte} {bs : List Byte} {w : Word} {ws : List Word} :
    Carries lane (b0 :: b1 :: b2 :: b3 :: bs) (w :: ws) ↔
      (∀ k, [b0, b1, b2, b3].getD (lane k).val 0 = w.extractLsb' (8 * k.val) 8) ∧ Carries lane bs ws := by
  have hfirst : ∀ k, (b0 :: b1 :: b2 :: b3 :: bs).getD (4 * 0 + (lane k).val) 0 = [b0, b1, b2, b3].getD (lane k).val 0 := by
    intro k
    rw [Nat.mul_zero, Nat.zero_add]
    exact List.getD_append [b0, b1, b2, b3] bs 0 _ (lane k).isLt
  have hrest : ∀ j (k : Fin 4),
      (b0 :: b1 :: b2 :: b3 :: bs).getD (4 * (j + 1) + (lane k).val) 0 = bs.getD (4 * j + (lane k).val) 0 := by
    intro j k
    rw [show 4 * (j + 1) + (lane k).val = 4 * j + (lane k).val + 1 + 1 + 1 + 1 by omega]
    rfl
  constructor
  · rintro ⟨hlen, hbytes⟩
    simp only [List.length_cons] at hlen
    refine ⟨fun k => (hfirst k).symm.trans (hbytes 0 (by simp) k), by omega, fun j hj k => ?_⟩
    exact (hrest j k).symm.trans (hbytes (j + 1) (by simpa using hj) k)
  · rintro ⟨hword, hlen, hbytes⟩
    refine ⟨by simp only [List.length_cons]; omega, fun j hj k => ?_⟩
    cases j with
    | zero => exact (hfirst k).trans (hword k)
    | succ j => exact (hrest j k).trans (hbytes j (by simpa using hj) k)

/-- The words read from bus bytes are the words those bytes carry. -/
theorem wordsOfBytes_of_carries {lane : Fin 4 → Fin 4} {bs : List Byte} {ws : List Word} (h : Carries lane bs ws) :
    wordsOfBytes lane bs = ws := by
  induction ws generalizing bs with
  | nil =>
    obtain rfl : bs = [] := List.length_eq_zero_iff.1 h.1
    rfl
  | cons w ws ih =>
    match bs, h with
    | b0 :: b1 :: b2 :: b3 :: bs, h =>
      obtain ⟨hword, hrest⟩ := carries_cons_iff.1 h
      rw [wordsOfBytes, wordOfBytes_eq hword, ih hrest]
    | [], h | [_], h | [_, _], h | [_, _, _], h =>
      have hlen := h.1
      simp only [List.length_cons, List.length_nil] at hlen
      omega

/-- The bus bytes of some words where `place p` is the byte of its word that stands at the place `p` of its group. -/
def busBytes (place : Fin 4 → Fin 4) : List Word → List Byte
  | [] => []
  | w :: ws =>
    w.extractLsb' (8 * (place 0).val) 8 :: w.extractLsb' (8 * (place 1).val) 8 :: w.extractLsb' (8 * (place 2).val) 8 ::
      w.extractLsb' (8 * (place 3).val) 8 :: busBytes place ws

/-- Where `place` undoes `lane`, those bytes carry the words. -/
theorem carries_busBytes {lane place : Fin 4 → Fin 4} (hplace : Function.LeftInverse place lane) (ws : List Word) :
    Carries lane (busBytes place ws) ws := by
  induction ws with
  | nil => exact ⟨rfl, by simp⟩
  | cons w ws ih =>
    refine carries_cons_iff.2 ⟨fun k => ?_, ih⟩
    have hk := hplace k
    generalize lane k = p at hk ⊢
    subst hk
    fin_cases p <;> rfl

/-- Settles O59: the words of the bytes are the packet, which decodes to its command; an injective order has an inverse, and it
gives the bytes. -/
theorem everyByteOrderCarriesEveryPacket : Obligations.EveryByteOrderCarriesEveryPacket := by
  intro lane hlane i hwf
  rw [← length_encode]
  obtain ⟨place, hplace⟩ := hlane.hasLeftInverse
  refine ⟨fun bs hbs => ?_, busBytes place (encode i), carries_busBytes hplace (encode i)⟩
  rw [decodeBytes, wordsOfBytes_of_carries hbs]
  simpa using decode_encode_append hwf []

end Sys2Proof

namespace Sys2Proof.Machine

/-! ### The line trace -/

/-- Each kind of step records at most one line event behind those made before (20_memory R53, R54; log 1). -/
theorem Steps.trace {s t : State} (h : Steps s t) : t.trace = s.trace ∨ ∃ e, t.trace = s.trace ++ [e] := by
  cases h with
  | takes _ _ he => cases he <;> simp
  | waits => exact .inl rfl
  | rejects opc _ => exact .inl rfl
  | advances _ ha =>
    cases ha with
    | finishes hf => cases hf <;> simp
    | _ => simp
  | ignores _ => exact .inl rfl

/-- Settles O21: every next state is one of `Steps`, and each of those has at most one new event. -/
theorem aStepMakesAtMostOneLineEvent : Obligations.AStepMakesAtMostOneLineEvent :=
  fun _ _ h => (steps_of_step h).trace

/-! ### The order of the sampled bits -/

theorem shiftIn_append_singleton (bs : List Level) (b : Level) : shiftIn (bs ++ [b]) = shiftBit (shiftIn bs) b := by
  simp [shiftIn]

/-- Of up to 24 levels shifted in, level i stands as many places above bit 0 as there are levels after it (40_link R87). -/
theorem shiftIn_getLsbD {bs : List Level} (hlen : bs.length ≤ 24) {i : Nat} (hi : i < bs.length) :
    (shiftIn bs).getLsbD (bs.length - 1 - i) = (bs.getD i .low == .high) := by
  induction bs using List.reverseRecOn with
  | nil => simp at hi
  | append_singleton bs b ih =>
    simp only [List.length_append, List.length_singleton] at hlen hi ⊢
    rw [shiftIn_append_singleton, shiftBit_getLsbD _ _ _ (by omega)]
    by_cases hlast : i = bs.length
    · subst hlast
      simp
    · have hi' : i < bs.length := by omega
      rw [if_neg (by omega), List.getD_append _ _ _ _ hi', ← ih (by omega) hi']
      congr 1
      omega

/-- Settles O31: with 24 levels, level i has 23 - i levels after it. -/
theorem firstSampleIsTheTopBit : Obligations.FirstSampleIsTheTopBit := by
  intro bs hlen i hi
  have hbit := shiftIn_getLsbD hlen.le (hlen ▸ hi)
  rwa [hlen] at hbit

/-! ### The port -/

/-- Settles O5: the decoder finds the arguments missing, and the block waits for them. -/
theorem incompletePacketWaits : Obligations.IncompletePacketWaits := by
  intro s h ws op hidle hport hop hshort
  have hdecode : decode s.port = .error .missingArguments := by
    rw [hport, decode_cons_of_ok hop, assemble_of_short h hshort]
  exact step_idle_error hidle hdecode

theorem hostWrite_idle_whole {s : State} {ws : List Word} (hidle : s.phase = .idle) (hw : wholePacket ws = true) :
    hostWrite ws s = .next { s with port := s.port ++ ws } := by simp [hostWrite, State.status, hidle, hw]

theorem hostWrite_idle_partial {s : State} {ws : List Word} (hidle : s.phase = .idle) (hw : wholePacket ws = false) :
    hostWrite ws s = .refused .partialPacket := by simp [hostWrite, State.status, hidle, hw]

theorem hostWrite_halted {s : State} (ws : List Word) (hhalted : s.phase = .halted) : hostWrite ws s = .next s := by
  simp [hostWrite, State.status, hhalted]

theorem hostWrite_run {s : State} {c : Instr} {p : Pos} (ws : List Word) (hrun : s.phase = .run c p) :
    hostWrite ws s = .refused .portBusy := by simp [hostWrite, State.status, hrun]

/-- Settles O58: what a whole packet is follows from its header's row, and what a write does from the phase. -/
theorem hostWritesOnlyWhileNotBusy : Obligations.HostWritesOnlyWhileNotBusy :=
  ⟨Laws.wholePacket_encode, fun _ _ _ hop => wholePacket_iff (opOf_of_decodeHeader hop), fun ws _ =>
    ⟨hostWrite_idle_whole, hostWrite_idle_partial, hostWrite_halted ws, fun _ _ => hostWrite_run ws⟩⟩

end Sys2Proof.Machine
end

section
/-! SUPPORT. The encoding (30_encoding): the round trip of packets (R74, R76), the illegal headers (R75, R78, R79), and the table of
R80. -/

namespace Sys2Proof

/-! ### Packets and their commands -/

/-- Settles O1: each format's header is read back field by field, and the argument words behind it are left in order. -/
theorem decodeOfEncodeIsTheCommand : Obligations.DecodeOfEncodeIsTheCommand :=
  fun _ rest hwf => decode_encode_append hwf rest

/-- A header of format S with SEL2 = 3 is in no packet the decoder accepts (30_encoding R75). -/
theorem sel_ne_three_of_decode {op : Op} {sel : BitVec 2} {ws : List Word} {p : Instr × List Word} (hf : op.format = .S)
    (e : decode (selectHeader op sel :: ws) = .ok p) : sel ≠ 3 := by
  cases hd : decodeHeader (selectHeader op sel) with
  | error err => simp [decode, hd] at e
  | ok op' =>
    have hrow := opOf_of_decodeHeader hd
    rw [hdrOpc_select, opOf_opcode] at hrow
    cases hrow
    simpa only [hdrSel_select] using (decodeHeader_eq_ok.1 hd).2.2 hf

/-- The decoder accepts well-formed commands only (30_encoding R75). -/
theorem wf_of_decode {ws rest : List Word} {i : Instr} (e : decode ws = .ok (i, rest)) : i.wf = true := by
  obtain rfl := eq_encode_append_of_decode e
  cases i with
  | init sel | setInputSelect sel => exact decide_eq_true (sel_ne_three_of_decode rfl e)
  | _ => rfl

/-- Settles O2: the accepted packet is its command's, and its mode operand passed the check of R75. -/
theorem decodeAcceptsOnlyEncodings : Obligations.DecodeAcceptsOnlyEncodings :=
  fun _ _ _ e => ⟨wf_of_decode e, eq_encode_append_of_decode e⟩

/-- Settles O6: each of the six packets is the encoder's for its command, which the decoder reads back. -/
theorem tableWordsDecode : Obligations.TableWordsDecode :=
  ⟨decode_encode_append (i := .init 1) rfl [], decode_encode_append (i := .isReady) rfl [],
    decode_encode_append (i := .readRawAvg 10) rfl [], decode_encode_append (i := .filterUpdate 100000) rfl [],
    decode_encode_append (i := .setFilterParams 1500 15000 32 128 10) rfl [],
    decode_encode_append (i := .toUnits 8100) rfl []⟩

end Sys2Proof

namespace Sys2Proof.Machine

/-! ### Illegal headers -/

theorem hdrOpc_eq_setWidth (h : Word) : hdrOpc h = h.setWidth 8 :=
  BitVec.eq_of_toNat_eq (by rw [hdrOpc_toNat, BitVec.toNat_setWidth])

/-- The formats by opcode number are those of the opcode map, and are missing where it has no row (30_encoding R76). -/
theorem formatAt_toNat (opc : Byte) : formatAt opc.toNat = (opOf opc).map Op.format := by
  revert opc
  decide

theorem formatAt_header (h : Word) : formatAt (h.toNat % 256) = (opOf (hdrOpc h)).map Op.format := by
  rw [← formatAt_toNat, hdrOpc_toNat]
  rfl

/-- The last opcode of the map is 0x35 (30_encoding R76). -/
theorem formatAt_above (n : Nat) : formatAt (0x36 + n) = none := by
  unfold formatAt
  split
  case h_17 => rfl
  all_goals omega

/-- The map has 16 of the 0x36 opcode values up to 0x35, and none of the 202 above (30_encoding R78). -/
theorem length_unmapped : ((List.range 256).filter (fun n => (formatAt n).isNone)).length = 240 := by
  have hlow : ((List.range 0x36).filter (fun n => (formatAt n).isNone)).length = 0x36 - 16 := by decide
  have hhigh : ∀ n ∈ (List.range 202).map (0x36 + ·), (formatAt n).isNone = true := by simp [formatAt_above]
  rw [show 256 = 0x36 + 202 from rfl, List.range_add, List.filter_append, List.filter_eq_self.2 hhigh, List.length_append, hlow,
    List.length_map, List.length_range]

/-- In a row of the map the header decoder refuses a header exactly if a check of the row's format fails (30_encoding R79). -/
theorem exists_decodeHeader_error_iff_of_row {h : Word} {op : Op} (ho : opOf (hdrOpc h) = some op) :
    (∃ e, decodeHeader h = .error e) ↔ op.format.reservedClear h = false ∨ op.format = .S ∧ hdrSel h = 3 := by
  simp only [decodeHeader, ho]
  split_ifs with hclear hsel
  · exact iff_of_true ⟨_, rfl⟩ (.inl hclear)
  · exact iff_of_true ⟨_, rfl⟩ (.inr hsel)
  · exact iff_of_false (by simp) (not_or.2 ⟨hclear, hsel⟩)

/-- Those checks are the ones on the header as a number. -/
theorem headerIllegal_iff_of_row {h : Word} {op : Op} (ho : opOf (hdrOpc h) = some op) :
    headerIllegal h.toNat ↔ op.format.reservedClear h = false ∨ op.format = .S ∧ hdrSel h = 3 := by
  have hsel : hdrSel h = 3 ↔ h.toNat / 2 ^ 8 % 4 = 3 := by
    rw [← BitVec.toNat_inj, hdrSel, extract_toNat]
    rfl
  rw [← Bool.not_eq_true, reservedClear_iff, hsel, headerIllegal, formatAt_header, ho, Option.map_some]
  cases op.format <;> simp

/-- The header decoder refuses exactly the headers of 30_encoding R78. -/
theorem exists_decodeHeader_error_iff (h : Word) : (∃ e, decodeHeader h = .error e) ↔ headerIllegal h.toNat := by
  cases ho : opOf (hdrOpc h) with
  | none =>
    have hdecode : decodeHeader h = .error .unknownOpcode := by simp only [decodeHeader, ho]
    have hillegal : headerIllegal h.toNat := by rw [headerIllegal, formatAt_header, ho]; trivial
    exact iff_of_true ⟨_, hdecode⟩ hillegal
  | some op => exact (exists_decodeHeader_error_iff_of_row ho).trans (headerIllegal_iff_of_row ho).symm

/-- Settles O3: refusal is the equivalence above, an accepted header's opcode finds its row in both maps, and each field is cut
from its bits. -/
theorem headerDecoderFollowsTheMap : Obligations.HeaderDecoderFollowsTheMap := by
  intro h
  refine ⟨exists_decodeHeader_error_iff h, fun op hd => ?_, extract_toNat h 8 2, extract_toNat h 8 16, extract_toNat h 8 8,
    extract_toNat h 16 8⟩
  have hrow := opOf_of_decodeHeader hd
  have hopc := (decodeHeader_eq_ok.1 hd).1
  exact ⟨hopc.symm, by rw [formatAt_header, hrow, Option.map_some], by rw [packetLength, hrow]⟩

/-- A refused header is an illegal header, and nothing is waited for (30_encoding R78). -/
theorem noPacket_of_decodeHeader_error {h : Word} {e : DecodeError} (hd : decodeHeader h = .error e) (s : State) :
    noPacket e s = illegalHeader s := by
  unfold decodeHeader at hd
  split at hd
  · cases hd; rfl
  · split_ifs at hd <;> cases hd <;> rfl

theorem step_idle_illegalHeader {s : State} {h : Word} {ws : List Word} (hidle : s.phase = .idle) (hport : s.port = h :: ws)
    (hillegal : headerIllegal h.toNat) : step s = .next (illegalHeader s) := by
  obtain ⟨e, hd⟩ := (exists_decodeHeader_error_iff h).2 hillegal
  have hdecode : decode s.port = .error e := by simp only [hport, decode, hd]
  rw [step_idle_error hidle hdecode, noPacket_of_decodeHeader_error hd]

theorem illegalHeader_of_port {s : State} {h : Word} {ws : List Word} (hport : s.port = h :: ws) :
    illegalHeader s = raiseFault (h.setWidth 8) .illegalCmd { s with port := ws } := by
  rw [illegalHeader, hport, ← hdrOpc_eq_setWidth]
  rfl

/-- Settles O4: the step is the fault entry for the header's low byte, with the header alone taken off the port. -/
theorem illegalHeaderFaultsOnArrival : Obligations.IllegalHeaderFaultsOnArrival := by
  refine ⟨length_unmapped, fun s h ws hidle hport hillegal => ?_⟩
  have hstep := step_idle_illegalHeader hidle hport hillegal
  rw [illegalHeader_of_port hport] at hstep
  exact ⟨_, hstep, .inl rfl, rfl⟩

end Sys2Proof.Machine
end

section
/-! SUPPORT. The link (40_link): the two faults of `LinePre` (R83), the readiness poll (R86), and IS_READY (R89). -/

namespace Sys2Proof.Machine

/-! ### The faults of `LinePre` -/

theorem linePre_linkDown {op : Op} {s : State} {body : Result} (hlink : s.link = false) :
    linePre op s body = .next (raiseFault op.opcode .linkDown s) := by
  rw [linePre, if_pos hlink, fail]

theorem linePre_poweredDown {op : Op} {s : State} {body : Result} (hlink : s.link = true) (hdown : s.pwr = .powerDown) :
    linePre op s body = .next (raiseFault op.opcode .poweredDown s) := by
  rw [linePre, if_neg (by simp [hlink]), if_pos hdown, fail]

/-- A command that begins with `LinePre` has its two faults. -/
theorem lineFaults_of_linePre {i : Instr} {s : State} {body : Result} (hexec : exec i s = linePre i.op s body) :
    lineFaults i s :=
  ⟨fun hlink => hexec.trans (linePre_linkDown hlink), fun hlink hdown => hexec.trans (linePre_poweredDown hlink hdown)⟩

/-! ### The readiness poll -/

theorem step_wait_high {s : State} {c : Instr} (hwait : s.phase = .run c .wait) (hhigh : s.peek 0 = .high) :
    step s = .next { s.skip 1 with trace := s.trace ++ [.sample .high] } := by
  rw [step_run hwait, advance, pollStep_high c hhigh, ← hwait]
  rfl

theorem step_wait_low {s : State} {c : Instr} (hwait : s.phase = .run c .wait) (hlow : s.peek 0 = .low) :
    step s = .next
      { s.skip 1 with trace := s.trace ++ [.sample .low], shreg := 0, phase := .run c (.data 0 .hi) } := by
  rw [step_run hwait, advance, pollStep_low c hlow]

/-- The state after `k` polls that drew 1 (40_link R86). -/
def polled (k : Nat) (s : State) : State := { s.skip k with trace := s.trace ++ List.replicate k (.sample .high) }

@[simp] theorem polled_zero (s : State) : polled 0 s = s := by simp [polled]

@[simp] theorem polled_phase (k : Nat) (s : State) : (polled k s).phase = s.phase := rfl

@[simp] theorem polled_trace (k : Nat) (s : State) : (polled k s).trace = s.trace ++ List.replicate k (.sample .high) := rfl

@[simp] theorem peek_polled (k n : Nat) (s : State) : (polled k s).peek n = s.peek (k + n) := peek_skip s k n

theorem skip_polled (k n : Nat) (s : State) : (polled k s).skip n = { s.skip (k + n) with trace := (polled k s).trace } := by
  rw [← skip_skip]
  rfl

theorem polled_succ (k : Nat) (s : State) :
    polled (k + 1) s = { (polled k s).skip 1 with trace := (polled k s).trace ++ [.sample .high] } := by
  rw [skip_polled, polled_trace, List.append_assoc, ← List.replicate_succ', polled]

/-- A poll that draws 1 leaves the command at WAIT, so the next one polls again. -/
theorem run_polls {c : Instr} {k : Nat} {s : State} (hwait : s.phase = .run c .wait) (hhigh : ∀ j, j < k → s.peek j = .high) :
    run k s = .next (polled k s) := by
  induction k with
  | zero => simp
  | succ k ih =>
    have hpolls := ih fun j hj => hhigh j (hj.trans k.lt_succ_self)
    have hlast : (polled k s).peek 0 = .high := (peek_polled k 0 s).trans (hhigh k k.lt_succ_self)
    rw [run_add hpolls, run_one, step_wait_high ((polled_phase k s).trans hwait) hlast, polled_succ]

/-- The poll that draws 0 after `k` that drew 1 ends the wait (40_link R86, R87). -/
theorem run_polls_ready {c : Instr} {k : Nat} {s : State} (hwait : s.phase = .run c .wait) (hready : readyAfter k s) :
    run (k + 1) s = .next { s.skip (k + 1) with
      trace := s.trace ++ List.replicate k (.sample .high) ++ [.sample .low], shreg := 0, phase := .run c (.data 0 .hi) } := by
  obtain ⟨hhigh, hlow⟩ := hready
  have hlast : (polled k s).peek 0 = .low := (peek_polled k 0 s).trans hlow
  rw [run_add (run_polls hwait hhigh), run_one, step_wait_low ((polled_phase k s).trans hwait) hlast, skip_polled, polled_trace]

/-- Settles O28: the polls that draw 1, and one step more for the poll that draws 0. -/
theorem waitReadyPollsWithoutBound : Obligations.WaitReadyPollsWithoutBound :=
  fun _ _ _ hwait hhigh => ⟨run_polls hwait hhigh, fun hlow => run_polls_ready hwait ⟨hhigh, hlow⟩⟩

/-! ### IS_READY -/

/-- Behind `LinePre`, one sample decides the result (40_link R89). -/
theorem exec_isReady (s : State) :
    exec .isReady s = linePre .isReady s (.next { s.skip 1 with
      trace := s.trace ++ [.sample (s.peek 0)], res := some (w32 (if s.peek 0 = .low then 1 else 0)), phase := .idle }) :=
  rfl

/-- Settles O34: the faults are those of `LinePre`; past it the sample is the level drawn. -/
theorem isReadySamplesOnce : Obligations.IsReadySamplesOnce := by
  refine ⟨rfl, fun s => ⟨lineFaults_of_linePre (exec_isReady s), fun hup => ⟨fun hlow => ?_, fun hhigh => ?_⟩⟩⟩
  · rw [exec_isReady, linePre_up hup, hlow]
    rfl
  · rw [exec_isReady, linePre_up hup, hhigh]
    rfl

end Sys2Proof.Machine
end

section
/-! SUPPORT. Acquisition (41_acquisition): a whole transaction (R90), the raw code as a number (R91), and the three commands that
acquire (R93 to R95). -/

namespace Sys2Proof.Machine

/-! ### The levels a transaction samples -/

/-- The next `n` levels. -/
def nextLevels (n : Nat) (s : State) : List Level := (List.range n).map s.peek

theorem nextLevels_succ (n : Nat) (s : State) : nextLevels (n + 1) s = s.peek 0 :: nextLevels n (s.skip 1) := by
  simp [nextLevels, List.range_succ_eq_map, Nat.add_comm]

/-! ### The parts of a transaction -/

/-- What the poll that draws 0 and the `k` polls before it do beside the position (40_link R86, R87). -/
def polledReady (k : Nat) (s : State) : State :=
  { s.skip (k + 1) with trace := s.trace ++ List.replicate k (.sample .high) ++ [.sample .low], shreg := 0 }

@[simp] theorem polledReady_sel (k : Nat) (s : State) : (polledReady k s).sel = s.sel := rfl

@[simp] theorem peek_polledReady (k n : Nat) (s : State) : (polledReady k s).peek n = s.peek (k + 1 + n) :=
  peek_skip s (k + 1) n

theorem sampledBits_eq_nextLevels (k : Nat) (s : State) : sampledBits k s = nextLevels 24 (polledReady k s) := by
  simp [sampledBits, nextLevels]

theorem run_beginTransaction_ready (c : Instr) {k : Nat} {s : State} (hready : readyAfter k s) :
    run (k + 1) (beginTransaction c s) = .next (goto (.run c (.data 0 .hi)) (polledReady k s)) :=
  run_polls_ready rfl hready

theorem afterPulse_of_lt {i : Fin 24} (m : InputSelect) (hlt : i.val + 1 < 24) :
    afterPulse i m = .data ⟨i.val + 1, hlt⟩ .hi := dif_pos hlt

theorem afterPulse_last {i : Fin 24} (m : InputSelect) (hlast : i.val = 23) : afterPulse i m = afterData m :=
  dif_neg (by omega)

/-- A pulse on a powered sensor leaves its selection as it was (10_state R41). -/
theorem armed_pulse_of_normal {s : State} (hpower : s.sensorPower = some .normal) :
    (clkSet .low (clkSet .high s)).armed = s.armed := by
  obtain ⟨hpower', harmed⟩ := wake_of_normal (l := .high) hpower
  exact (wake_of_normal (s := clkSet .high s) hpower').2.trans harmed

/-- What `n` data pulses, one or more, do beside the position (40_link R87); only the first can wake the sensor. -/
def dataPulsed (n : Nat) (s : State) : State :=
  { s.skip n with
    clk := some .low
    shreg := (nextLevels n s).foldl shiftBit s.shreg
    sbit := s.peek (n - 1)
    trace := s.trace ++ (nextLevels n s).flatMap (fun b => [.clk .high, .sample b, .clk .low])
    armed := (clkSet .low (clkSet .high s)).armed
    sensorPower := some .normal }

@[simp] theorem dataPulsed_sel (n : Nat) (s : State) : (dataPulsed n s).sel = s.sel := rfl

/-- The first of the pulses powers the sensor, so those behind it leave its selection alone. -/
theorem dataPulsed_succ (n : Nat) (s : State) : dataPulsed (n + 2) s = dataPulsed (n + 1) (dataPulsed 1 s) := by
  have hlevels : nextLevels (n + 1) (dataPulsed 1 s) = nextLevels (n + 1) (s.skip 1) := rfl
  have hskip : s.skip (n + 2) = (s.skip 1).skip (n + 1) := by rw [skip_skip, Nat.add_comm 1]
  have hpeek : (dataPulsed 1 s).peek (n + 1 - 1) = s.peek (n + 2 - 1) :=
    (peek_skip s 1 n).trans (congrArg s.peek (Nat.add_comm 1 n))
  have harmed : (clkSet .low (clkSet .high (dataPulsed 1 s))).armed = (dataPulsed 1 s).armed := armed_pulse_of_normal rfl
  rw [dataPulsed, dataPulsed, hlevels, hpeek, harmed, hskip, nextLevels_succ, List.flatMap_cons, ← List.append_assoc]
  rfl

/-- One data pulse, from its first event (40_link R87). -/
theorem run_dataPulse_goto (c : Instr) (i : Fin 24) (s : State) :
    run 3 (goto (.run c (.data i .hi)) s) = .next (goto (.run c (afterPulse i s.sel)) (dataPulsed 1 s)) :=
  run_dataPulse rfl

/-- The data pulses from pulse i to pulse 23 (40_link R87). -/
theorem run_dataPulses {c : Instr} {n : Nat} {i : Fin 24} {s : State} (hi : i.val + n = 23) :
    run (3 * (n + 1)) (goto (.run c (.data i .hi)) s) =
      .next (goto (.run c (afterData s.sel)) (dataPulsed (n + 1) s)) := by
  induction n generalizing i s with
  | zero =>
    rw [← afterPulse_last s.sel hi]
    exact run_dataPulse_goto c i s
  | succ n ih =>
    have hpulse := run_dataPulse_goto c i s
    rw [afterPulse_of_lt s.sel (by omega)] at hpulse
    rw [show 3 * (n + 1 + 1) = 3 + 3 * (n + 1) by omega, run_add hpulse, dataPulsed_succ]
    exact ih (Nat.add_right_comm i n 1 ▸ hi)

/-- What the trailing pulses of the mode in `SEL` do beside the position, with the sensor powered (40_link R88). -/
def trailPulsed (s : State) : State :=
  { s with trace := s.trace ++ (List.replicate (pTrail s.sel) [.clk .high, .clk .low]).flatten }

/-- The trailing pulses: none, or one that begins and ends with the clock line low (40_link R88). -/
theorem run_trailPulses {c : Instr} {s : State} (hlow : s.clk = some .low) (hpower : s.sensorPower = some .normal) :
    run (2 * pTrail s.sel) (goto (.run c (afterData s.sel)) s) = .next (goto (.run c .fix) (trailPulsed s)) := by
  by_cases hnone : pTrail s.sel = 0
  · simp [afterData, trailPulsed, hnone]
  · have hone : pTrail s.sel = 1 := pTrail_of_ne_gainA128 fun hsel => hnone (hsel ▸ rfl)
    have hpulse := run_trailPulse (c := c) (j := 1) (s := goto (.run c (.trail 1 .hi)) s) rfl
    have harmed := armed_pulse_of_normal (s := goto (.run c (.trail 1 .hi)) s) hpower
    rw [harmed, goto_sel, hone, ← hlow, ← hpower] at hpulse
    rw [afterData, if_neg hnone, trailPulsed, hone]
    exact hpulse

/-- What FIX does to the ghost `armed` (10_state R41). -/
def armSelection (s : State) : State := { s with armed := some (pTrail s.sel) }

/-- FIX hands the code of the bits in `SHREG` to the command (41_acquisition R90). -/
theorem step_goto_fix (c : Instr) (s : State) :
    step (goto (.run c .fix) s) = afterTransaction c (rawCode s.shreg) (goto (.run c .fix) (armSelection s)) := rfl

/-- The parts of a transaction, put together (41_acquisition R90). -/
theorem transact_eq_parts (k : Nat) (s : State) :
    transact k s = armSelection (trailPulsed (dataPulsed 24 (polledReady k s))) := by
  have hlast : s.peek (k + 24) = (polledReady k s).peek 23 := (peek_polledReady k 23 s).symm
  rw [transact, hlast, sampledBits_eq_nextLevels]
  simp [shiftIn, transactionTrace, armSelection, trailPulsed, dataPulsed, polledReady, drawn_add]

theorem sampledCode_eq_parts (k : Nat) (s : State) :
    sampledCode k s = rawCode (trailPulsed (dataPulsed 24 (polledReady k s))).shreg := by
  rw [sampledCode, sampledBits_eq_nextLevels]
  rfl

/-- Settles O29: the polls, the data pulses, the trailing pulses and FIX, one after the other. -/
theorem transactionRunsToItsCode : Obligations.TransactionRunsToItsCode := by
  intro c k s hready
  have hpolls := run_beginTransaction_ready c hready
  have hdata : run 72 _ = .next (goto _ (dataPulsed 24 _)) :=
    run_dataPulses (c := c) (n := 23) (i := 0) (s := polledReady k s) rfl
  have htrail := run_trailPulses (c := c) (s := dataPulsed 24 (polledReady k s)) rfl rfl
  rw [dataPulsed_sel, polledReady_sel] at htrail
  rw [transactionSteps, Nat.add_assoc, Nat.add_assoc, run_add hpolls, run_add hdata, polledReady_sel, run_add htrail,
    run_one, step_goto_fix, ← sampledCode_eq_parts, ← transact_eq_parts]

/-! ### The raw code -/

theorem u32_rawCode (v : BitVec 24) : u32 (rawCode v) = v.toInt + 2 ^ 23 := by
  have := v.isLt
  rw [u32, rawCode_toNat, BitVec.toInt_eq_toNat_cond]
  split <;> omega

theorem u32_rawCode_range (v : BitVec 24) : 0 ≤ u32 (rawCode v) ∧ u32 (rawCode v) ≤ 2 ^ 24 - 1 := by
  have := rawCode_lt v
  rw [u32]
  omega

/-- The code fits 24 bits, so read as signed it is not negative (41_acquisition R91). -/
theorem s32_rawCode (v : BitVec 24) : s32 (rawCode v) = u32 (rawCode v) :=
  BitVec.toInt_eq_toNat_of_lt (by have := rawCode_lt v; omega)

/-- Settles O30: inverting bit 23 adds 2^23 to the sampled number. -/
theorem rawCodeIsOffsetBinary : Obligations.RawCodeIsOffsetBinary := by
  refine ⟨fun v => ?_, fun v w hlt => ?_⟩
  · obtain ⟨hnonneg, hmax⟩ := u32_rawCode_range v
    exact ⟨u32_rawCode v, hnonneg, hmax, s32_rawCode v, rfl⟩
  · rw [u32_rawCode, u32_rawCode]
    exact Int.add_lt_add_right hlt _

theorem sampledCode_le (k : Nat) (s : State) : (sampledCode k s).toNat ≤ 2 ^ 24 - 1 :=
  Nat.le_sub_one_of_lt (rawCode_lt _)

/-! ### READ_RAW -/

theorem exec_readRaw (s : State) : exec .readRaw s = linePre .readRaw s (.next (beginTransaction .readRaw s)) := rfl

theorem afterTransaction_readRaw (code : Word) (s : State) :
    afterTransaction .readRaw code s = .next { s with res := some code, phase := .idle } := by
  rw [afterTransaction, finishReadRaw, respond, w32_u32, goto]

/-- Settles O35: past `LinePre` one transaction runs, and the code it hands over is the result. -/
theorem readRawReturnsTheCode : Obligations.ReadRawReturnsTheCode := by
  refine ⟨rfl, fun s => ⟨lineFaults_of_linePre (exec_readRaw s), fun hup => ⟨_, ?_, rfl, fun k hready => ⟨?_, ?_⟩⟩⟩⟩
  · exact (exec_readRaw s).trans (linePre_up hup)
  · exact (transactionRunsToItsCode .readRaw k s hready).trans (afterTransaction_readRaw _ _)
  · exact sampledCode_le k s

/-! ### READ_RAW_AVG -/

/-- A word is written as its number. -/
theorem eq_ofNat_of_toNat {h : Word} {n : Nat} (hn : h.toNat = n) : h = BitVec.ofNat 32 n := by
  rw [← hn, BitVec.ofNat_toNat, BitVec.setWidth_eq]

theorem encode_readRawAvg (n : BitVec 16) : encode (.readRawAvg n) = [BitVec.ofNat 32 (n.toNat * 2 ^ 8 + 0x12)] :=
  congrArg (fun h => [h]) (eq_ofNat_of_toNat (countHeader_toNat .readRawAvg n))

theorem exec_readRawAvg (n : BitVec 16) (s : State) :
    exec (.readRawAvg n) s = linePre .readRawAvg s
      (if n = 0 then fail .readRawAvg .divZero s else .next (beginTransaction (.readRawAvg n) { s with acc := 0, cnt := n })) :=
  rfl

theorem tdiv_natCast (a n : Nat) : w32 (tdiv a n) = BitVec.ofNat 32 (a / n) := by
  rw [tdiv, ← Int.ofNat_tdiv, w32, BitVec.ofInt_natCast]

/-- The last transaction's code completes the sum, and the mean is the result (41_acquisition R94). -/
theorem afterTransaction_readRawAvg_last {n : BitVec 16} {s : State} (code : Word) (hlast : s.cnt = 1) :
    afterTransaction (.readRawAvg n) code s = .next { s with
      acc := s.acc + code.toNat, cnt := 0, res := some (BitVec.ofNat 32 ((s.acc + code.toNat) / n.toNat)), phase := .idle } := by
  rw [← tdiv_natCast]
  simp [afterTransaction, finishReadRawAvg, hlast, goto, respond]

/-- Before the last transaction its code joins the sum and the next one begins (41_acquisition R94). -/
theorem afterTransaction_readRawAvg_more {n : BitVec 16} {s : State} (code : Word) (hmore : s.cnt ≠ 1) :
    afterTransaction (.readRawAvg n) code s =
      .next (beginTransaction (.readRawAvg n) { s with acc := s.acc + code.toNat, cnt := s.cnt - 1 }) :=
  if_neg fun h => hmore (sub_eq_zero.mp h)

/-- `CNT` transactions in a row, one or more, add their codes to `ACC` and end with the mean (41_acquisition R94). -/
theorem run_readRawAvg {n cnt : BitVec 16} {ks : List Nat} {acc : Nat} {s : State} (hlength : ks.length = cnt.toNat)
    (hcnt : cnt ≠ 0) (hready : readyAll ks s) :
    run (stepsAll s.sel ks) (beginTransaction (.readRawAvg n) { s with acc := acc, cnt := cnt }) =
      .next { transactAll ks s with
        acc := acc + codeSum ks s
        cnt := 0
        res := some (BitVec.ofNat 32 ((acc + codeSum ks s) / n.toNat))
        phase := .idle } := by
  induction ks generalizing cnt acc s with
  | nil => exact absurd (BitVec.eq_of_toNat_eq hlength.symm) hcnt
  | cons k ks ih =>
    obtain ⟨hfirst, hrest⟩ := hready
    have hone := transactionRunsToItsCode (.readRawAvg n) k { s with acc := acc, cnt := cnt } hfirst
    by_cases hlast : cnt = 1
    · obtain rfl : ks = [] := by
        subst hlast
        exact List.length_eq_zero_iff.mp (Nat.succ.inj hlength)
      exact hone.trans (afterTransaction_readRawAvg_last _ hlast)
    · have hmore := hone.trans (afterTransaction_readRawAvg_more _ hlast)
      have hleft : ks.length = (cnt - 1).toNat := by
        rw [List.length_cons] at hlength
        bv_omega
      have hnext := ih (acc := acc + (sampledCode k s).toNat) hleft (sub_ne_zero.mpr hlast) hrest
      rw [Nat.add_assoc] at hnext
      exact (run_add hmore).trans hnext

theorem codeSum_le (ks : List Nat) (s : State) : codeSum ks s ≤ ks.length * (2 ^ 24 - 1) := by
  induction ks generalizing s with
  | nil => simp [codeSum]
  | cons k ks ih =>
    have hcode := sampledCode_le k s
    have hrest := ih (transact k s)
    rw [codeSum, List.length_cons]
    omega

/-- Settles O36: past the three faults `n` transactions run from a sum of 0, and each code is below 2^24. -/
theorem readRawAvgReturnsTheMean : Obligations.ReadRawAvgReturnsTheMean := by
  refine fun n => ⟨encode_readRawAvg n, fun s => ⟨lineFaults_of_linePre (exec_readRawAvg n s), fun hup hzero => ?_,
    fun hup hne => ⟨_, ?_, rfl, fun ks hlength hready => ?_⟩⟩⟩
  · rw [exec_readRawAvg, linePre_up hup, if_pos hzero, fail]
    rfl
  · rw [exec_readRawAvg, linePre_up hup, if_neg hne]
    rfl
  · have hrun := run_readRawAvg (n := n) (acc := 0) hlength hne hready
    have hsum : codeSum ks s ≤ n.toNat * (2 ^ 24 - 1) := hlength ▸ codeSum_le ks s
    simp only [Nat.zero_add] at hrun
    have hpos : 0 < n.toNat := by bv_omega
    exact ⟨hrun, hsum, Nat.div_lt_of_lt_mul (by omega)⟩

/-! ### SET_INPUT_SELECT -/

theorem encode_setInputSelect (sel : BitVec 2) :
    encode (.setInputSelect sel) = [BitVec.ofNat 32 (sel.toNat * 2 ^ 8 + 0x13)] :=
  congrArg (fun h => [h]) (eq_ofNat_of_toNat (selectHeader_toNat .setInputSelect sel))

theorem modeOf_code (m : InputSelect) : modeOf m.code = some m := by
  cases m <;> rfl

/-- Only the select operand 3 names no mode (30_encoding R75). -/
theorem exists_modeOf {sel : BitVec 2} (hsel : sel ≠ 3) : ∃ m, modeOf sel = some m :=
  Option.isSome_iff_exists.mp (by decide +revert)

theorem exec_setInputSelect {sel : BitVec 2} {m : InputSelect} (s : State) (hmode : modeOf sel = some m) :
    exec (.setInputSelect sel) s =
      linePre .setInputSelect s (.next (beginTransaction (.setInputSelect sel) { s with sel := m })) := by
  rw [exec, execSetInputSelect, hmode]

/-- Settles O37: the operand 3 names no mode; another is stored past `LinePre`, and the transaction runs in that state. -/
theorem setInputSelectStoresAndFlushes : Obligations.SetInputSelectStoresAndFlushes := by
  refine fun sel => ⟨encode_setInputSelect sel, fun s => ⟨?_, fun hsel => ?_, ?_⟩⟩
  · rintro rfl
    rfl
  · obtain ⟨m, hmode⟩ := exists_modeOf hsel
    exact lineFaults_of_linePre (exec_setInputSelect s hmode)
  · rintro m rfl hup
    refine ⟨_, (exec_setInputSelect s (modeOf_code m)).trans (linePre_up hup), rfl, fun k hready => ?_⟩
    exact transactionRunsToItsCode (.setInputSelect m.code) k { s with sel := m } hready

end Sys2Proof.Machine
end

section
/-! SUPPORT. The adaptive filter (42_filter): the coefficient (R98), where an update takes `EMA` and `STABLE` (R96 to R102), and
the three commands (R103 to R105). -/

namespace Sys2Proof.Machine

/-! ### The coefficient -/

/-- The floor of a fraction, at most 1, of `c` lies between 0 and `c`, whatever the sign of `c`. -/
theorem mul_ediv_between {x w : Int} (c : Int) (hx : 0 ≤ x) (hxw : x ≤ w) (hw : 0 < w) :
    min 0 c ≤ c * x / w ∧ c * x / w ≤ max 0 c := by
  rcases le_total 0 c with hc | hc
  · rw [min_eq_left hc, max_eq_right hc]
    exact ⟨Int.ediv_nonneg (mul_nonneg hc hx) hw.le, Int.ediv_le_of_le_mul hw (mul_le_mul_of_nonneg_left hxw hc)⟩
  · rw [min_eq_right hc, max_eq_left hc]
    exact ⟨Int.le_ediv_of_mul_le hw (mul_le_mul_of_nonpos_left hxw hc),
      Int.ediv_le_of_le_mul hw (by simpa using mul_nonpos_of_nonpos_of_nonneg hc hx)⟩

/-- In every state the coefficient lies between `AMIN` and `AMAX`, in whichever order these stand. -/
theorem alpha_between (d : Int) (s : State) :
    min (u8 s.amin) (u8 s.amax) ≤ alpha d s ∧ alpha d s ≤ max (u8 s.amin) (u8 s.amax) := by
  rcases le_or_gt d (u32 s.dlow) with hlow | hlow
  · rw [alpha_low hlow]
    omega
  rcases le_or_gt (u32 s.dhigh) d with hhigh | hhigh
  · rw [alpha_high hlow hhigh]
    omega
  · have hquotient := mul_ediv_between (x := d - u32 s.dlow) (w := u32 s.dhigh - u32 s.dlow) (u8 s.amax - u8 s.amin)
      (by omega) (by omega) (by omega)
    rw [alpha_mid hlow hhigh, Int.mul_comm]
    omega

theorem alpha_range {s : State} (ht : tuningOk s) (d : Int) : u8 s.amin ≤ alpha d s ∧ alpha d s ≤ u8 s.amax := by
  have hbetween := alpha_between d s
  rwa [min_eq_left ht.2, max_eq_right ht.2] at hbetween

/-- The coefficient fits 8 bits in every state (42_filter R100). -/
theorem alpha_byte (d : Int) (s : State) : 0 ≤ alpha d s ∧ alpha d s ≤ 255 := by
  have hbetween := alpha_between d s
  have hamin := u8_range s.amin
  have hamax := u8_range s.amax
  omega

/-- Below `DHIGH` the interpolation has not reached `AMAX`. -/
theorem alpha_mid_lt {d : Int} {s : State} (hlow : u32 s.dlow < d) (hhigh : d < u32 s.dhigh) (hlt : u8 s.amin < u8 s.amax) :
    alpha d s < u8 s.amax := by
  have hquotient : (d - u32 s.dlow) * (u8 s.amax - u8 s.amin) / (u32 s.dhigh - u32 s.dlow) < u8 s.amax - u8 s.amin := by
    refine Int.ediv_lt_of_lt_mul (by omega) ?_
    rw [Int.mul_comm]
    exact Int.mul_lt_mul_of_pos_left (by omega) (by omega)
  rw [alpha_mid hlow hhigh]
  omega

theorem alpha_mono {d e : Int} {s : State} (ht : tuningOk s) (hde : d ≤ e) : alpha d s ≤ alpha e s := by
  rcases le_or_gt d (u32 s.dlow) with hlow | hlow
  · rw [alpha_low hlow]
    exact (alpha_range ht e).1
  rcases le_or_gt (u32 s.dhigh) e with hhigh | hhigh
  · rw [alpha_high (hlow.trans_le hde) hhigh]
    exact (alpha_range ht d).2
  · obtain ⟨hthresholds, hcoefficients⟩ := ht
    rw [alpha_mid hlow (hde.trans_lt hhigh), alpha_mid (hlow.trans_le hde) hhigh]
    refine Int.add_le_add_left (Int.ediv_le_ediv (by omega) ?_) _
    exact Int.mul_le_mul_of_nonneg_right (by omega) (by omega)

/-- The product of the interpolation fits 40 bits (42_filter R98). -/
theorem interpolation_lt {d : Int} {s : State} (hlow : u32 s.dlow < d) (hhigh : d < u32 s.dhigh) :
    (d - u32 s.dlow) * (u8 s.amax - u8 s.amin) < 2 ^ 40 := by
  have hdlow := u32_range s.dlow
  have hdhigh := u32_range s.dhigh
  have hamin := u8_range s.amin
  have hamax := u8_range s.amax
  calc (d - u32 s.dlow) * (u8 s.amax - u8 s.amin)
      ≤ (d - u32 s.dlow) * 255 := Int.mul_le_mul_of_nonneg_left (by omega) (by omega)
    _ < 2 ^ 40 := by omega

/-- Settles O38: one branch each for the values, and the order of the thresholds and of the coefficients for the rest. -/
theorem alphaIsPiecewiseLinear : Obligations.AlphaIsPiecewiseLinear :=
  fun _ ht => ⟨fun _ => alpha_low, fun _ hhigh => alpha_high (ht.1.trans_le hhigh) hhigh,
    fun _ hlow hhigh => ⟨alpha_mid hlow hhigh, alpha_mid_lt hlow hhigh, interpolation_lt hlow hhigh⟩,
    alpha_range ht, fun _ _ => alpha_mono ht⟩

/-! ### One update -/

/-- The coefficient is a fraction of 256, so the step lies between 0 and the difference (42_filter R100). -/
theorem emaStep_between (d : Int) (s : State) : min 0 d ≤ emaStep d s ∧ emaStep d s ≤ max 0 d := by
  obtain ⟨hnonneg, hbyte⟩ := alpha_byte |d| s
  rw [emaStep_eq]
  exact mul_ediv_between d hnonneg (by omega) (by omega)

/-- Upward the step falls short of the difference (42_filter R102). -/
theorem emaStep_lt {d : Int} (hd : 0 < d) (s : State) : emaStep d s < d := by
  obtain ⟨-, hbyte⟩ := alpha_byte |d| s
  rw [emaStep_eq]
  exact Int.ediv_lt_of_lt_mul (by omega) (Int.mul_lt_mul_of_pos_left (by omega) hd)

/-- Downward, with a positive coefficient, the floor makes a step of at least 1 (42_filter R99). -/
theorem emaStep_neg {d : Int} {s : State} (hd : d < 0) (ha : 1 ≤ alpha |d| s) : emaStep d s < 0 := by
  rw [emaStep_eq]
  exact Int.ediv_neg_of_neg_of_pos (Int.mul_neg_of_neg_of_pos hd ha) (by omega)

/-- The new `EMA` lies between two words, so its write is exact (42_filter R100). -/
theorem s32_nextEma (raw : Word) (s : State) :
    s32 (nextEma (s32 raw) s) = s32 s.ema + emaStep (s32 raw - s32 s.ema) s := by
  have hstep := emaStep_between (s32 raw - s32 s.ema) s
  have hema := s32_range s.ema
  have hraw := s32_range raw
  exact s32_w32 (by omega) (by omega)

theorem nextStable_of_lt {e : Word} {s : State} (h : u32 s.deadband < |s32 e - s32 s.stable|) : nextStable e s = e :=
  if_pos (by rwa [absZ_eq])

theorem nextStable_of_le {e : Word} {s : State} (h : |s32 e - s32 s.stable| ≤ u32 s.deadband) :
    nextStable e s = s.stable := if_neg (by rwa [absZ_eq, gt_iff_lt, not_lt])

/-- Settles O39: the seed is written as it came, and the new `EMA`, written exactly, meets the dead-band or not. -/
theorem filterUpdateFollowsItsSteps : Obligations.FilterUpdateFollowsItsSteps := by
  refine fun raw s => ⟨fun hunseeded => ?_, fun hseeded =>
    ⟨nextEma (s32 raw) s, ?_, fun hover => ?_, fun hwithin => ?_⟩⟩
  · rw [filterUpdateP_seed _ hunseeded, w32_s32]
  · exact (s32_nextEma raw s).trans (by rw [emaStep_eq]; rfl)
  · rw [filterUpdateP_next _ hseeded, nextStable_of_lt hover]
    rfl
  · rw [filterUpdateP_next _ hseeded, nextStable_of_le hwithin]
    rfl

/-- Settles O40: the step lies between 0 and the difference, and the dead-band chooses between two values. -/
theorem emaStaysBetweenOldAndInput : Obligations.EmaStaysBetweenOldAndInput := by
  intro raw s
  have hstep := emaStep_between (s32 raw - s32 s.ema) s
  refine ⟨fun hd => by omega, fun hd => by omega, s32_nextEma raw s, ?_⟩
  cases hseeded : s.initF with
  | false =>
    rw [filterUpdateP_seed _ hseeded]
    exact .inr rfl
  | true =>
    rw [filterUpdateP_next _ hseeded]
    exact (ite_eq_or_eq _ _ _).symm

/-! ### A constant input -/

/-- What one update makes of `EMA` in a seeded filter. -/
theorem s32_filterUpdateP_ema {s : State} (raw : Word) (hseeded : s.initF = true) :
    s32 (filterUpdateP (s32 raw) s).2.ema = s32 s.ema + emaStep (s32 raw - s32 s.ema) s := by
  rw [filterUpdateP_next _ hseeded]
  exact s32_nextEma raw s

/-- From above `EMA` falls by at least one, and not past the input (42_filter R102). -/
theorem ema_falls {r : Word} {s : State} (hseeded : s.initF = true) (habove : s32 r < s32 s.ema)
    (ha : 1 ≤ alpha |s32 r - s32 s.ema| s) :
    s32 r ≤ s32 (filterUpdateP (s32 r) s).2.ema ∧ s32 (filterUpdateP (s32 r) s).2.ema < s32 s.ema := by
  have hstep := emaStep_between (s32 r - s32 s.ema) s
  have hfalls := emaStep_neg (by omega) ha
  rw [s32_filterUpdateP_ema r hseeded]
  omega

/-- Settles O41: the step is the floor of the product over 256, which from below is 0 while the product is less. -/
theorem constantInputMovesEmaTowardIt : Obligations.ConstantInputMovesEmaTowardIt := by
  intro r s hseeded
  have hema := s32_filterUpdateP_ema r hseeded
  have hproduct := emaStep_eq (s32 r - s32 s.ema) s
  refine ⟨ema_falls hseeded, fun hbelow hreaches => ?_, fun hbelow hshort => ?_, fun hzero => ?_, fun hequal => ?_⟩
  · have hlt := emaStep_lt (Int.sub_pos_of_lt hbelow) s
    omega
  · have hnonneg := mul_nonneg (Int.sub_pos_of_lt hbelow).le (alpha_byte |s32 r - s32 s.ema| s).1
    omega
  · rw [hzero] at hproduct
    omega
  · rw [hequal, sub_self, zero_mul] at hproduct
    rw [hema, hequal, sub_self, hproduct]
    omega

/-- `EMA` stands at or above the input of a seeded filter whose coefficient is never 0. -/
structure AtOrAbove (r : Word) (s : State) : Prop where
  seeded : s.initF = true
  tuning : tuningOk s
  amin   : 1 ≤ u8 s.amin
  above  : s32 r ≤ s32 s.ema

/-- An update keeps `EMA` at or above the input, and closes the gap by at least one where there is one. -/
theorem AtOrAbove.after_update {r : Word} {s : State} (h : AtOrAbove r s) :
    AtOrAbove r (filterUpdateP (s32 r) s).2 ∧
      (s32 (filterUpdateP (s32 r) s).2.ema - s32 r).toNat ≤ (s32 s.ema - s32 r).toNat - 1 := by
  obtain ⟨hseeded, htuning, hamin, habove⟩ := h
  have hgap : s32 r ≤ s32 (filterUpdateP (s32 r) s).2.ema ∧
      (s32 (filterUpdateP (s32 r) s).2.ema - s32 r).toNat ≤ (s32 s.ema - s32 r).toNat - 1 := by
    rcases habove.eq_or_lt with hequal | hlt
    · have hstep := emaStep_between (s32 r - s32 s.ema) s
      rw [s32_filterUpdateP_ema r hseeded]
      omega
    · have hfalls := ema_falls hseeded hlt (hamin.trans (alpha_range htuning _).1)
      omega
  exact ⟨⟨by simp, by simpa [tuningOk] using htuning, by simpa using hamin, hgap.1⟩, hgap.2⟩

/-- As many updates as the gap is wide close it, and those behind them leave it closed (42_filter R102). -/
theorem AtOrAbove.ema_iterate {r : Word} {m : Nat} {s : State} (h : AtOrAbove r s)
    (hm : (s32 s.ema - s32 r).toNat ≤ m) : ((fun t => (filterUpdateP (s32 r) t).2)^[m] s).ema = r := by
  induction m generalizing s with
  | zero =>
    have habove := h.above
    exact BitVec.eq_of_toInt_eq (show s32 s.ema = s32 r by omega)
  | succ m ih =>
    obtain ⟨hnext, hgap⟩ := h.after_update
    exact ih hnext (hgap.trans (by omega))

/-- Settles O42: the gap between `EMA` and the input bounds the number of calls. -/
theorem emaReachesInputFromAbove : Obligations.EmaReachesInputFromAbove :=
  fun _ _ hseeded htuning hamin habove => ⟨_, fun _ => AtOrAbove.ema_iterate ⟨hseeded, htuning, hamin, habove⟩⟩

/-! ### FILTER_UPDATE and READ_FILTERED -/

/-- The end both commands have: the update, its value in `RES`, and the block at rest. -/
theorem respond_filterUpdateP (raw : Int) (s : State) :
    goto .idle (respond (filterUpdateP raw s).1 (filterUpdateP raw s).2) =
      { s with
        ema := (filterUpdateP raw s).2.ema
        stable := (filterUpdateP raw s).2.stable
        initF := true
        res := some (w32 (filterUpdateP raw s).1)
        phase := .idle } :=
  congrArg (fun t => goto .idle (respond (filterUpdateP raw s).1 t)) (filterUpdateP_frame raw s)

/-- Settles O43: the command is the update with nothing before it. -/
theorem filterUpdateReturnsItsValue : Obligations.FilterUpdateReturnsItsValue :=
  fun raw => ⟨rfl, fun s => congrArg Host.Outcome.next (respond_filterUpdateP (s32 raw) s)⟩

theorem exec_readFiltered (s : State) :
    exec .readFiltered s = linePre .readFiltered s (.next (beginTransaction .readFiltered s)) := rfl

theorem afterTransaction_readFiltered (code : Word) (s : State) :
    afterTransaction .readFiltered code s =
      .next { s with
        ema := (filterUpdateP (u32 code) s).2.ema
        stable := (filterUpdateP (u32 code) s).2.stable
        initF := true
        res := some (w32 (filterUpdateP (u32 code) s).1)
        phase := .idle } := congrArg Host.Outcome.next (respond_filterUpdateP (u32 code) s)

/-- Settles O44: past `LinePre` one transaction runs, which writes no register that the update of its code reads. -/
theorem readFilteredUpdatesWithAFreshCode : Obligations.ReadFilteredUpdatesWithAFreshCode := by
  refine ⟨rfl, fun s => ⟨lineFaults_of_linePre (exec_readFiltered s), fun hup => ⟨_, ?_, rfl, fun k hready => ?_⟩⟩⟩
  · exact (exec_readFiltered s).trans (linePre_up hup)
  · obtain ⟨hvalue, hema, hstable⟩ := filterUpdateP_congr (s := goto (.run .readFiltered .fix) (transact k s)) (t := s)
      (u32 (sampledCode k s)) (fun _ => ⟨rfl, rfl⟩) rfl rfl rfl rfl rfl rfl
    have hrun := transactionRunsToItsCode .readFiltered k s hready
    rw [afterTransaction_readFiltered, hvalue, hema, hstable] at hrun
    exact hrun

/-! ### SET_FILTER_PARAMS -/

theorem encode_setFilterParams (dlow dhigh : Word) (amin amax : Byte) (db : Word) :
    encode (.setFilterParams dlow dhigh amin amax db) =
      [BitVec.ofNat 32 (amax.toNat * 2 ^ 16 + amin.toNat * 2 ^ 8 + 0x22), dlow, dhigh, db] := by
  have hopcode : Op.setFilterParams.opcode.toNat = 0x22 := rfl
  have hheader : (filterHeader .setFilterParams amin amax).toNat = amax.toNat * 2 ^ 16 + amin.toNat * 2 ^ 8 + 0x22 := by
    rw [filterHeader_toNat, hopcode]
    omega
  rw [encode, eq_ofNat_of_toNat hheader]

theorem badParams_eq_true_iff {dlow dhigh : Word} {amin amax : Byte} :
    badParams dlow dhigh amin amax = true ↔ dhigh.toNat ≤ dlow.toNat ∨ amax.toNat < amin.toNat := by
  simp [badParams, u32, u8]

/-- Settles O45: the operand check decides between the fault and the five writes. -/
theorem setFilterParamsWritesAllOrFaults : Obligations.SetFilterParamsWritesAllOrFaults := by
  refine fun dlow dhigh amin amax db => ⟨encode_setFilterParams dlow dhigh amin amax db, fun s =>
    ⟨fun hbad => if_pos (badParams_eq_true_iff.2 hbad), fun hthresholds hcoefficients => if_neg ?_⟩⟩
  rw [badParams_eq_true_iff]
  omega

end Sys2Proof.Machine
end

section
/-! SUPPORT. Calibration (43_calibration): the conversion to units (R106), the two setters (R108, R109), the commands that convert
or tare (R107, R110 to R112), and the error of a calibrated conversion (R114). -/

namespace Sys2Proof.Machine

/-! ### The two setters -/

/-- Settles O47: the setter checks nothing. -/
theorem setScaleWritesOnlyScale : Obligations.SetScaleWritesOnlyScale := fun _ => ⟨rfl, fun _ => rfl⟩

/-- Settles O48: the setter checks nothing. -/
theorem setOffsetWritesOnlyOffset : Obligations.SetOffsetWritesOnlyOffset := fun _ => ⟨rfl, fun _ => rfl⟩

/-! ### The conversion to units -/

theorem respondUnits_divZero {op : Op} {s : State} (count : Int) (hscale : s.scale = 0) :
    respondUnits op count s = .next (raiseFault op.opcode .divZero s) := by
  rw [respondUnits, toUnitsP, if_pos hscale]

/-- How a conversion under a nonzero scale ends: with the quotient `q` in `RES`, or with UNITS_RANGE where it does not fit int16,
and nothing else changed either way (43_calibration R106). -/
def AnswersUnits (op : Op) (q : Int) (s : State) (answer : Result) : Prop :=
  (q < -32768 ∨ 32767 < q → answer = .next (raiseFault op.opcode .unitsRange s)) ∧
  (-32768 ≤ q → q ≤ 32767 → ∃ v : Word, v.toInt = q ∧ answer = .next { s with res := some v, phase := .idle })

theorem respondUnits_answersUnits (op : Op) (count : Int) {s : State} (hscale : s.scale ≠ 0) :
    AnswersUnits op (Int.tdiv (count - s32 s.offset) (s32 s.scale)) s (respondUnits op count s) := by
  obtain ⟨hzero, -⟩ | ⟨-, q, rfl, ⟨hout, hunits⟩ | ⟨hlow, hhigh, hunits⟩⟩ := toUnitsP_cases count s
  · exact absurd hzero hscale
  · rw [respondUnits, hunits]
    exact ⟨fun _ => rfl, fun hlow hhigh => by omega⟩
  · rw [respondUnits, hunits]
    exact ⟨fun hout => by omega, fun _ _ => ⟨w32 _, s32_w32 (by omega) (by omega), rfl⟩⟩

/-- Settles O49: the command is the conversion of its argument with nothing before it. -/
theorem toUnitsDividesOrFaults : Obligations.ToUnitsDividesOrFaults := by
  refine fun count => ⟨rfl, fun s => ⟨respondUnits_divZero (s32 count), fun hscale => ?_, fun hscale => ?_⟩⟩
  · exact (respondUnits_answersUnits .toUnits (s32 count) hscale).1
  · exact (respondUnits_answersUnits .toUnits (s32 count) hscale).2

/-! ### The commands that convert a fresh code -/

/-- A command that checks `SCALE` behind `LinePre` faults, or begins its transaction (43_calibration R111, R112). -/
theorem checksScale_of_linePre {i : Instr} {s : State}
    (hexec : exec i s = linePre i.op s (if s.scale = 0 then fail i.op .divZero s else .next (beginTransaction i s))) :
    lineFaults i s ∧ (linkUp s → s.scale = 0 → exec i s = .next (raiseFault i.op.opcode .divZero s)) ∧
      (linkUp s → s.scale ≠ 0 → exec i s = .next { s with phase := .run i .wait }) := by
  refine ⟨lineFaults_of_linePre hexec, fun hup hzero => ?_, fun hup hscale => ?_⟩
  · rw [hexec, linePre_up hup, if_pos hzero, fail]
  · rw [hexec, linePre_up hup, if_neg hscale, beginTransaction, goto]

theorem afterTransaction_readRawUnits (code : Word) {s : State} (hscale : s.scale ≠ 0) :
    AnswersUnits .readRawUnits (Int.tdiv (u32 code - s32 s.offset) (s32 s.scale)) s (afterTransaction .readRawUnits code s) :=
  respondUnits_answersUnits .readRawUnits (u32 code) hscale

/-- Settles O50: past the checks one transaction runs, and its code is converted. -/
theorem readRawUnitsConvertsAFreshCode : Obligations.ReadRawUnitsConvertsAFreshCode := by
  refine ⟨rfl, fun s => ?_⟩
  obtain ⟨hfaults, hzero, hbegins⟩ := checksScale_of_linePre (i := .readRawUnits) (s := s) rfl
  refine ⟨hfaults, hzero, fun hup hscale => ⟨_, hbegins hup hscale, rfl, fun k hready => ?_⟩⟩
  have hanswers := afterTransaction_readRawUnits (sampledCode k s) (s := goto (.run .readRawUnits .fix) (transact k s)) hscale
  rw [← transactionRunsToItsCode .readRawUnits k s hready] at hanswers
  exact hanswers

/-! ### The filter behind a transaction -/

/-- A transaction writes no register that the filter reads. -/
theorem filterUpdateP_transact (raw : Int) (p : Phase) (k : Nat) (s : State) :
    filterUpdateP raw (goto p (transact k s)) =
      ((filterUpdateP raw s).1,
       { goto p (transact k s) with
         ema := (filterUpdateP raw s).2.ema, stable := (filterUpdateP raw s).2.stable, initF := true }) := by
  obtain ⟨hvalue, hema, hstable⟩ := filterUpdateP_congr (s := goto p (transact k s)) (t := s) raw
    (fun _ => ⟨rfl, rfl⟩) rfl rfl rfl rfl rfl rfl
  refine Prod.ext hvalue ?_
  rw [filterUpdateP_frame, hema, hstable]

theorem afterTransaction_readFilteredUnits (code : Word) {s : State} (hscale : s.scale ≠ 0) :
    AnswersUnits .readFilteredUnits
      (Int.tdiv ((filterUpdateP (u32 code) s).1 - s32 (filterUpdateP (u32 code) s).2.offset)
        (s32 (filterUpdateP (u32 code) s).2.scale))
      (filterUpdateP (u32 code) s).2 (afterTransaction .readFilteredUnits code s) :=
  respondUnits_answersUnits .readFilteredUnits _ (by rwa [filterUpdateP_scale])

/-- Settles O51: past the checks one transaction runs, the filter takes its code, and the filter's value is converted. -/
theorem readFilteredUnitsConvertsTheFilteredReading : Obligations.ReadFilteredUnitsConvertsTheFilteredReading := by
  refine ⟨rfl, fun s => ?_⟩
  obtain ⟨hfaults, hzero, hbegins⟩ := checksScale_of_linePre (i := .readFilteredUnits) (s := s) rfl
  refine ⟨hfaults, hzero, fun hup hscale => ⟨_, hbegins hup hscale, rfl, fun k hready => ?_⟩⟩
  have hanswers := afterTransaction_readFilteredUnits (sampledCode k s)
    (s := goto (.run .readFilteredUnits .fix) (transact k s)) hscale
  rw [← transactionRunsToItsCode .readFilteredUnits k s hready, filterUpdateP_transact] at hanswers
  exact hanswers

/-! ### TARE -/

/-- The value the filter returns is the new `STABLE` (42_filter R96). -/
theorem w32_filterUpdateP_fst (raw : Int) (s : State) : w32 (filterUpdateP raw s).1 = (filterUpdateP raw s).2.stable := by
  cases hseeded : s.initF with
  | false => rw [filterUpdateP_seed raw hseeded]
  | true => rw [filterUpdateP_next raw hseeded, w32_s32]

theorem exec_tare (s : State) : exec .tare s = linePre .tare s (.next (beginTransaction .tare s)) := rfl

theorem afterTransaction_tare (code : Word) (s : State) :
    afterTransaction .tare code s =
      .next { (filterUpdateP (u32 code) s).2 with
        offset := (filterUpdateP (u32 code) s).2.stable
        res := some (filterUpdateP (u32 code) s).2.stable
        phase := .idle } := by
  rw [← w32_filterUpdateP_fst]
  rfl

/-- Settles O46: past `LinePre` one transaction runs, and the filter's value, which is the new `STABLE`, is written twice. -/
theorem tareStoresTheFilteredReading : Obligations.TareStoresTheFilteredReading := by
  refine ⟨rfl, fun s => ⟨lineFaults_of_linePre (exec_tare s), fun hup => ⟨_, ?_, rfl, fun k hready => ?_⟩⟩⟩
  · exact (exec_tare s).trans (linePre_up hup)
  · have hrun := transactionRunsToItsCode .tare k s hready
    rw [afterTransaction_tare, filterUpdateP_transact] at hrun
    exact hrun

/-! ### The error of a calibrated conversion -/

theorem abs_tdiv (a b : Int) : |Int.tdiv a b| = |a| / |b| := by
  rw [Int.abs_eq_natAbs, Int.natAbs_tdiv, Int.abs_eq_natAbs a, Int.abs_eq_natAbs b]
  exact Int.natCast_ediv _ _

theorem abs_tmod_lt (a : Int) {b : Int} (hb : b ≠ 0) : |Int.tmod a b| < |b| := by
  rw [Int.abs_eq_natAbs, Int.natAbs_tmod, Int.abs_eq_natAbs b, Int.ofNat_lt]
  exact Nat.mod_lt _ (Int.natAbs_pos.mpr hb)

/-- Dividing `X` by the scale computed from it gives the weight back, and the remainder's share beside it (43_calibration R114). -/
theorem tdiv_tdiv_self {X W : Int} (hscale : Int.tdiv X W ≠ 0) :
    Int.tdiv X (Int.tdiv X W) = W + Int.tdiv (Int.tmod X W) (Int.tdiv X W) := by
  wlog hX : 0 ≤ X generalizing X
  · have hneg := this (X := -X) (by rwa [Int.neg_tdiv, neg_ne_zero]) (by omega)
    rwa [Int.neg_tdiv X W, Int.neg_tmod, Int.neg_tdiv_neg, Int.neg_tdiv_neg] at hneg
  have hparts : Int.tmod X W + Int.tdiv X W * W = X := Int.tmod_add_tdiv_mul X W
  calc Int.tdiv X (Int.tdiv X W)
      = (Int.tmod X W + Int.tdiv X W * W) / Int.tdiv X W := by rw [hparts, Int.tdiv_eq_ediv_of_nonneg hX]
    _ = Int.tmod X W / Int.tdiv X W + W := Int.add_mul_ediv_left _ _ hscale
    _ = W + Int.tdiv (Int.tmod X W) (Int.tdiv X W) := by
      rw [Int.tdiv_eq_ediv_of_nonneg (Int.tmod_nonneg W hX), Int.add_comm]

/-- The remainder has the sign of `X`, the scale that of `X` times the weight's, so the error has the weight's. -/
theorem calibrationError_sign (X W : Int) : 0 ≤ Int.tdiv (Int.tmod X W) (Int.tdiv X W) * W := by
  wlog hX : 0 ≤ X generalizing X
  · have hneg := this (-X) (by omega)
    rwa [Int.neg_tdiv X W, Int.neg_tmod, Int.neg_tdiv_neg] at hneg
  have hremainder := Int.tmod_nonneg W hX
  rcases le_total 0 W with hW | hW
  · exact mul_nonneg (Int.tdiv_nonneg hremainder (Int.tdiv_nonneg hX hW)) hW
  · have hscale := Int.tdiv_nonpos_of_nonneg_of_nonpos hX hW
    exact mul_nonneg_of_nonpos_of_nonpos (Int.tdiv_nonpos_of_nonneg_of_nonpos hremainder hscale) hW

theorem toUnitsP_ok {count : Int} {s : State} (hscale : s.scale ≠ 0)
    (hlow : -32768 ≤ Int.tdiv (count - s32 s.offset) (s32 s.scale))
    (hhigh : Int.tdiv (count - s32 s.offset) (s32 s.scale) ≤ 32767) :
    toUnitsP count s = .ok (Int.tdiv (count - s32 s.offset) (s32 s.scale)) := by
  obtain ⟨hzero, -⟩ | ⟨-, q, rfl, ⟨hout, -⟩ | ⟨-, -, hunits⟩⟩ := toUnitsP_cases count s
  · exact absurd hzero hscale
  · omega
  · exact hunits

theorem s32_ne_zero {w : Word} (hw : w ≠ 0) : s32 w ≠ 0 := fun hzero => hw (BitVec.eq_of_toInt_eq hzero)

/-- Settles O52: `r` is the remainder of `X` by the weight, so the error is its quotient by the scale. -/
theorem calibrationRoundTripError : Obligations.CalibrationRoundTripError := by
  refine ⟨fun X W hlt => ?_, fun raw W s hW hscale heq => ?_⟩
  · rw [← abs_eq_zero, abs_tdiv, Int.ediv_eq_zero_of_lt (abs_nonneg X) hlt]
  generalize hX : raw - s32 s.offset = X at heq
  have hne : s32 s.scale ≠ 0 := s32_ne_zero hscale
  have hpos : 0 < |s32 s.scale| := abs_pos.mpr hne
  have hremainder : X - s32 s.scale * W = Int.tmod X W := by rw [heq, Int.tmod_def, Int.mul_comm]
  have htrip : Int.tdiv X (s32 s.scale) = W + Int.tdiv (Int.tmod X W) (s32 s.scale) := by
    rw [heq] at hne ⊢
    exact tdiv_tdiv_self hne
  rw [hremainder]
  refine ⟨htrip, ?_, ?_, fun hdvd => ?_, ?_, fun hlow hhigh => ?_⟩
  · rw [heq]
    exact calibrationError_sign X W
  · rw [abs_tdiv]
    exact Int.ediv_le_ediv hpos (Int.le_sub_one_of_lt (abs_tmod_lt X hW))
  · rw [Int.tmod_eq_zero_of_dvd hdvd, Int.zero_tdiv]
  · rw [abs_tdiv, ← Int.ediv_lt_iff_lt_mul hpos]
    omega
  · rw [← htrip, ← hX] at hlow hhigh ⊢
    exact toUnitsP_ok hscale hlow hhigh

end Sys2Proof.Machine
end

section
/-! SUPPORT. Control (44_control): INIT (R115), POWER_DOWN (R116, R118), POWER_UP (R117). -/

namespace Sys2Proof.Machine

/-! ### INIT -/

theorem encode_init (sel : BitVec 2) : encode (.init sel) = [BitVec.ofNat 32 (sel.toNat * 2 ^ 8 + 0x01)] :=
  congrArg (fun h => [h]) (eq_ofNat_of_toNat (selectHeader_toNat .init sel))

theorem exec_init {sel : BitVec 2} {m : InputSelect} (s : State) (hmode : modeOf sel = some m) :
    exec (.init sel) s = .next (goto (.run (.init sel) .lines) (dirIn s)) := by
  rw [exec, execInit, hmode]

/-- INIT's second step drives the clock low, and the mode is stored before the transaction begins (44_control R115). -/
theorem step_init_lines {sel : BitVec 2} {m : InputSelect} (s : State) (hmode : modeOf sel = some m) :
    step (goto (.run (.init sel) .lines) s) =
      .next (beginTransaction (.init sel) (clkSet .low { s with link := true, pwr := .normal, sel := m })) := by
  rw [step_run (goto_phase _ s), advance, linesStep, initLines, hmode]
  rfl

/-- A transaction drives the clock and wakes the sensor itself, so of a clock edge just before it only the trace keeps a mark. -/
theorem transact_clkSet (k : Nat) (l : Level) (s : State) :
    transact k (clkSet l s) = transact k { s with trace := (clkSet l s).trace } := rfl

/-- Settles O53: the operand 3 names no mode; for another the two line events lead into one transaction, which runs under the
new mode and whose code is dropped. -/
theorem initConfiguresAndFlushes : Obligations.InitConfiguresAndFlushes := by
  refine fun sel => ⟨encode_init sel, fun s => ⟨?_, ?_⟩⟩
  · rintro rfl
    rfl
  · rintro m rfl
    have hmode := modeOf_code m
    refine ⟨_, exec_init s hmode, rfl, fun k hready => ?_⟩
    have hlines := (run_one _).trans (step_init_lines (dirIn s) hmode)
    have hflush := transactionRunsToItsCode (.init m.code) k
      (clkSet .low { dirIn s with link := true, pwr := .normal, sel := m }) hready
    have htrace : (clkSet .low (dirIn s)).trace = s.trace ++ [.dirIn, .clk .low] := List.append_assoc _ _ _
    rw [transact_clkSet] at hflush
    rw [← htrace]
    exact (run_add hlines).trans hflush

/-! ### POWER_DOWN -/

theorem exec_powerDown_of_linkDown {s : State} (hlink : s.link = false) :
    exec .powerDown s = .next (raiseFault Op.powerDown.opcode .linkDown s) := by
  rw [exec, execPowerDown, if_pos hlink, fail]

theorem exec_powerDown_of_down {s : State} (hlink : s.link = true) (hdown : s.pwr = .powerDown) :
    exec .powerDown s = .next (goto .idle s) := by
  simp [exec, execPowerDown, hlink, hdown]

theorem exec_powerDown_of_up {s : State} (hup : linkUp s) :
    exec .powerDown s = .next (goto (.run .powerDown .hold) (clkSet .high s)) := by
  obtain ⟨hlink, hnormal⟩ := hup
  simp [exec, execPowerDown, hlink, hnormal]

/-- POWER_DOWN's second step holds the line and ends the command (44_control R116, R118). -/
theorem step_powerDown_hold (s : State) :
    step (goto (.run .powerDown .hold) s) = .next (goto .idle { holdPd s with pwr := .powerDown }) := rfl

/-- Settles O54: past its two early ends the command drives the clock high, and its one other step holds it there. -/
theorem powerDownHoldsTheClockHigh : Obligations.PowerDownHoldsTheClockHigh := by
  refine ⟨rfl, fun s => ⟨exec_powerDown_of_linkDown, exec_powerDown_of_down,
    fun hlink hnormal => ⟨_, exec_powerDown_of_up ⟨hlink, hnormal⟩, rfl, ?_⟩⟩⟩
  have htrace : (holdPd (clkSet .high s)).trace = s.trace ++ [.clk .high, .holdPd] := List.append_assoc _ _ _
  rw [run_one, step_powerDown_hold, ← htrace]
  rfl

/-! ### POWER_UP -/

theorem exec_powerUp_of_linkDown {s : State} (hlink : s.link = false) :
    exec .powerUp s = .next (raiseFault Op.powerUp.opcode .linkDown s) := by
  rw [exec, execPowerUp, if_pos hlink, fail]

theorem exec_powerUp_of_up {s : State} (hup : linkUp s) : exec .powerUp s = .next (goto .idle s) := by
  obtain ⟨hlink, hnormal⟩ := hup
  simp [exec, execPowerUp, hlink, hnormal]

/-- Settles O55: past its two early ends the command makes its one clock edge and completes. -/
theorem powerUpMakesOneTransition : Obligations.PowerUpMakesOneTransition :=
  ⟨rfl, fun _ => ⟨exec_powerUp_of_linkDown, fun hlink hnormal => exec_powerUp_of_up ⟨hlink, hnormal⟩, exec_powerUp_of_down⟩⟩

end Sys2Proof.Machine
end

section
/-! SUPPORT. Faults (60_exceptions): fault entry (R123), which commands fault and what then stands (R124), and the halted block
(R125). -/

namespace Sys2Proof.Machine

/-! ### Fault entry -/

theorem faultRecord_fopc (opc : Byte) (c : Cause) : (faultRecord opc c).extractLsb' 8 8 = opc := by
  apply BitVec.eq_of_toNat_eq
  have hopc := opc.isLt
  have hcode := c.code.isLt
  rw [BitVec.extractLsb'_toNat, faultRecord_toNat, Nat.shiftRight_eq_div_pow]
  omega

theorem faultRecord_fcause (opc : Byte) (c : Cause) : (faultRecord opc c).extractLsb' 1 4 = c.code := by
  apply BitVec.eq_of_toNat_eq
  have hcode := c.code.isLt
  rw [BitVec.extractLsb'_toNat, faultRecord_toNat, Nat.shiftRight_eq_div_pow]
  omega

theorem raiseFault_fcause (opc : Byte) (c : Cause) (s : State) : (raiseFault opc c s).fcause = c.code :=
  faultRecord_fcause opc c

/-- Settles O8: the fault record has the stated fields, and each cause its number. -/
theorem faultEntryWritesOnlyFaultAndPhase : Obligations.FaultEntryWritesOnlyFaultAndPhase := by
  intro opc c s
  refine ⟨rfl, faultRecord_fopc opc c, faultRecord_reserved opc c, faultRecord_fv opc c, rfl, ?_⟩
  rw [raiseFault_fcause]
  refine ⟨?_, ?_, ?_, ?_, ?_, ?_⟩ <;> (rintro rfl; rfl)

/-! ### Faults when a command is taken -/

/-- A command that halts the block as it is taken has made its fault entry and nothing else (60_exceptions R124). -/
theorem Executes.eq_raiseFault_of_halted {i : Instr} {s t : State} (h : Executes s i t) (hhalted : t.phase = .halted) :
    ∃ c, t = raiseFault i.op.opcode c s := by
  cases h with
  | fails i c => exact ⟨c, rfl⟩
  | _ => cases hhalted

/-! ### Faults inside a transaction -/

/-- A running command halts the block only at FIX, and only where it converts the code (60_exceptions R124). -/
theorem Advances.converts_of_halted {c : Instr} {p : Pos} {s t : State} (h : Advances s c p t) (hhalted : t.phase = .halted) :
    p = .fix ∧ (c = .readRawUnits ∨ c = .readFilteredUnits) := by
  cases h with
  | finishes hf =>
    cases hf with
    | convertFails => exact ⟨rfl, .inl rfl⟩
    | filterConvertFails => exact ⟨rfl, .inr rfl⟩
    | _ => cases hhalted
  | _ => cases hhalted

/-- A conversion under a nonzero scale has the one fault UNITS_RANGE (43_calibration R106). -/
theorem AnswersUnits.eq_raiseFault_of_halted {op : Op} {q : Int} {s t : State} {answer : Result}
    (h : AnswersUnits op q s answer) (ht : answer = .next t) (hhalted : t.phase = .halted) :
    t = raiseFault op.opcode .unitsRange s := by
  subst ht
  obtain ⟨hout, hfits⟩ := h
  by_cases hq : q < -32768 ∨ 32767 < q
  · exact Host.Outcome.next.inj (hout hq)
  · obtain ⟨v, -, hanswer⟩ := hfits (by omega) (by omega)
    cases hanswer
    cases hhalted

/-- Arming the selection commutes with the filter, which does not read it (42_filter R96). -/
theorem filterUpdateP_withArmed (raw : Int) (a : Option Nat) (s : State) :
    (filterUpdateP raw { s with armed := a }).2 =
      { s with
        armed := a, ema := (filterUpdateP raw s).2.ema, stable := (filterUpdateP raw s).2.stable, initF := true } := by
  obtain ⟨-, hema, hstable⟩ := filterUpdateP_congr (s := { s with armed := a }) (t := s) raw
    (fun _ => ⟨rfl, rfl⟩) rfl rfl rfl rfl rfl rfl
  rw [filterUpdateP_frame, hema, hstable]

/-- Settles O9: taken commands fault by fault entry alone; in a transaction only the two conversions at FIX fault, and `SCALE`,
checked before the transaction, leaves them UNITS_RANGE. -/
theorem faultsArePrecise : Obligations.FaultsArePrecise := by
  refine ⟨fun i s t hexec => (executes_of_exec hexec).eq_raiseFault_of_halted, fun c p s t hc hadvance hhalted => ?_⟩
  obtain ⟨rfl, rfl | rfl⟩ := (advances_of_advance hadvance).converts_of_halted hhalted
  · have hanswers := afterTransaction_readRawUnits (rawCode s.shreg) (s := { s with armed := some (pTrail s.sel) }) hc
    exact ⟨rfl, .inl ⟨rfl, hanswers.eq_raiseFault_of_halted hadvance hhalted⟩⟩
  · have hanswers := afterTransaction_readFilteredUnits (rawCode s.shreg) (s := { s with armed := some (pTrail s.sel) }) hc
    have ht := hanswers.eq_raiseFault_of_halted hadvance hhalted
    rw [filterUpdateP_withArmed] at ht
    exact ⟨rfl, .inr ⟨rfl, ht⟩⟩

/-! ### The halted block -/

/-- A halted block drops a word of the port a step (log 8), and its registers and trace stand (60_exceptions R125). -/
theorem run_halted (k : Nat) {s : State} (hhalted : s.phase = .halted) : run k s = .next { s with port := s.port.drop k } := by
  induction k generalizing s with
  | zero => rfl
  | succ k ih =>
    have hrest := ih (s := ignoreWord s) hhalted
    rw [run_succ_next (step_halted hhalted), hrest, ignoreWord, List.drop_tail]

/-- No register that the host can read depends on the port. -/
theorem hostRead_withPort (r : HostReg) (ws : List Word) (s : State) : hostRead r { s with port := ws } = hostRead r s := by
  cases r <;> rfl

/-- A move other than a reset leaves a halted block as it is, but for the port (60_exceptions R125). -/
theorem applyMove_halted {m : Move} {s t : State} (hhalted : s.phase = .halted) (hm : ∀ P, m ≠ .reset P)
    (h : applyMove m s = .next t) : t = { s with port := t.port } := by
  cases m with
  | step => cases (step_halted hhalted).symm.trans h; rfl
  | write ws => cases (hostWrite_halted ws hhalted).symm.trans h; rfl
  | reset P => exact absurd rfl (hm P)

/-- Settles O10: the port is all that a run of a halted block changes, and no read looks at it. -/
theorem haltedBlockIgnoresEveryWord : Obligations.HaltedBlockIgnoresEveryWord := by
  intro k s hhalted
  have hrun := run_halted k hhalted
  refine ⟨⟨_, hrun, rfl⟩, fun ws => hostWrite_halted ws hhalted, fun r t h => ?_, fun m t => applyMove_halted hhalted⟩
  cases hrun.symm.trans h
  exact hostRead_withPort r _ s

end Sys2Proof.Machine
end

section
/-! SUPPORT. Reset and runs (70_reset): the state after reset (R135), the moves (R134, R139), the lines before INIT (R136), how a
run ends (R138, R146). -/

namespace Sys2Proof.Machine

/-! ### Reset and the moves -/

/-- Settles O11: the reset column is read off the construction's fields. -/
theorem resetLeavesTheStatedValues : Obligations.ResetLeavesTheStatedValues :=
  ⟨fun _ => ⟨rfl, rfl, rfl, rfl, rfl, rfl, rfl, rfl, rfl, rfl, rfl, rfl, rfl, hostRead_res_of_none rfl, rfl, rfl, rfl, rfl,
    rfl, rfl⟩, Config.construction, construction_valid, rfl⟩

/-- Settles O15: a write adds a whole packet to the port, and a reset is a construction. -/
theorem everyMoveKeepsTheInvariant : Obligations.EveryMoveKeepsTheInvariant :=
  fun _ _ _ _ hs h => inv_of_applyMove h hs

/-! ### The lines before INIT -/

/-- With the link down a command other than INIT leaves the lines alone: it needs no line, or it faults LINK_DOWN (40_link R83). -/
theorem exec_of_linkDown {i : Instr} {s t : State} (hlink : s.link = false) (h : exec i s = .next t) :
    (∃ sel, i = .init sel) ∨ (t.trace = s.trace ∧ t.clk = s.clk ∧ t.link = false) := by
  cases executes_of_exec h with
  | configures _ => exact .inl ⟨_, rfl⟩
  | goesDown hup => simp [linkUp, hlink] at hup
  | wakes hup _ => simp [hlink] at hup
  | samples v d =>
    rw [exec_isReady, linePre_linkDown hlink] at h
    cases congrArg State.phase (Host.Outcome.next.inj h)
  | _ => exact .inr (by simp [hlink])

/-- With the link down only INIT runs: every position but INIT's `lines` needs the link (10_state R38, 40_link R83). -/
theorem Inv.runs_init_of_linkDown {s : State} {c : Instr} {p : Pos} (hs : Inv s) (hlink : s.link = false)
    (hrun : s.phase = .run c p) : ∃ sel, c = .init sel := by
  have hphase := hs.phase
  simp only [phaseOk, hrun] at hphase
  cases p with
  | lines =>
    obtain ⟨sel, hc, -⟩ := hphase
    exact ⟨sel, hc⟩
  | _ => simp [hlink] at hphase

/-- Settles O22: before INIT has brought the link up, a step of another command leaves the trace, `CLK` and `LINK` alone. -/
theorem noLineEventBeforeInit : Obligations.NoLineEventBeforeInit := by
  refine ⟨fun P s t h => ?_, fun s t hs hlink h hdrives => ?_⟩
  · obtain ⟨-, rfl⟩ := platformReset_next h
    exact ⟨rfl, rfl, rfl⟩
  have hloud : ¬ (t.trace = s.trace ∧ t.clk = s.clk ∧ t.link = false) := by
    rintro ⟨htrace, hclk, hdown⟩
    simp [htrace, hclk, hdown] at hdrives
  cases steps_of_step h with
  | @takes i rest _ hidle hd _ =>
    rw [step_idle_ok hidle hd] at h
    obtain ⟨sel, rfl⟩ := (exec_of_linkDown (s := { s with port := rest }) hlink h).resolve_right hloud
    exact ⟨sel, currentCommand_of_decode hidle hd⟩
  | advances hrun _ =>
    obtain ⟨sel, rfl⟩ := hs.runs_init_of_linkDown hlink hrun
    exact ⟨sel, currentCommand_of_run hrun⟩
  | waits | rejects | ignores => exact absurd ⟨rfl, rfl, hlink⟩ hloud

/-! ### Ended runs -/

/-- An IDLE block with nothing at its port stays as it is (log 8). -/
theorem step_idle_empty {s : State} (hidle : s.phase = .idle) (hport : s.port = []) : step s = .next s :=
  step_idle_error (e := .noHeader) hidle (by rw [hport]; rfl)

theorem run_of_step_self {s : State} (h : step s = .next s) (k : Nat) : run k s = .next s := by
  induction k with
  | zero => rfl
  | succ k ih => rw [run_succ_next h, ih]

/-- The phase tells the two ends apart (70_reset R138). -/
theorem not_completed_of_faulted {s : State} (hs : faulted s) : ¬ completed s := by
  rintro ⟨hidle, -, -⟩
  cases hidle.symm.trans hs.1

/-- Settles O27: an idle step changes nothing, and a halted block keeps all but the port. -/
theorem endedRunsStayEnded : Obligations.EndedRunsStayEnded := by
  refine fun k s => ⟨fun hdone => ?_, fun hfault => ?_⟩
  · obtain ⟨hidle, hport, -⟩ := hdone
    exact run_of_step_self (step_idle_empty hidle hport) k
  · exact ⟨not_completed_of_faulted hfault, _, run_halted k hfault.1, hfault, rfl, rfl⟩

end Sys2Proof.Machine

namespace Sys2Proof

/-! ### Taking a packet -/

/-- A legal header with the argument words of its row behind it assembles to a command, and takes no word more (30_encoding R74). -/
theorem exists_assemble {op : Op} {args : List Word} (h : Word) (hlen : args.length + 1 = op.format.words) (rest : List Word) :
    ∃ i, assemble op h (args ++ rest) = .ok (i, rest) := by
  cases op with
  | filterUpdate | setScale | setOffset | toUnits =>
    match args, hlen with
    | [_], _ => exact ⟨_, rfl⟩
  | setFilterParams =>
    match args, hlen with
    | [_, _, _], _ => exact ⟨_, rfl⟩
  | _ =>
    match args, hlen with
    | [], _ => exact ⟨_, rfl⟩

end Sys2Proof

namespace Sys2Proof.Machine

/-- No command touches the port once its packet is taken (20_memory R44). -/
theorem Executes.port {i : Instr} {s t : State} (h : Executes s i t) : t.port = s.port := by cases h <;> simp

theorem Finishes.port {c : Instr} {s t : State} (h : Finishes s c t) : t.port = s.port := by cases h <;> simp

theorem Advances.port {c : Instr} {p : Pos} {s t : State} (h : Advances s c p t) : t.port = s.port := by
  cases h with
  | finishes hf => exact hf.port
  | _ => simp

/-- An IDLE block at whose port a whole packet stands takes it, or halts on its header (20_memory R47, 30_encoding R78). -/
theorem step_packet {s t : State} {p rest : List Word} (hidle : s.phase = .idle) (hp : wholePacket p = true)
    (hport : s.port = p ++ rest) (h : step s = .next t) :
    (∃ i, decode s.port = .ok (i, rest) ∧ t.port = rest) ∨ t = illegalHeader s := by
  cases p with
  | nil => exact absurd rfl (ne_nil_of_wholePacket hp)
  | cons header args =>
    rw [List.cons_append] at hport
    cases hop : decodeHeader header with
    | ok op =>
      obtain ⟨i, hi⟩ := exists_assemble header ((wholePacket_iff (opOf_of_decodeHeader hop)).1 hp) rest
      have hd : decode s.port = .ok (i, rest) := by rw [hport, decode_cons_of_ok hop, hi]
      rw [step_idle_ok hidle hd] at h
      exact .inl ⟨i, hd, (executes_of_exec h).port⟩
    | error e =>
      rw [step_idle_error hidle (by rw [hport, decode, hop]), noPacket_of_decodeHeader_error hop] at h
      exact .inr (Host.Outcome.next.inj h).symm

/-! ### How much of a run is left -/

/-- The most steps a block's current command still takes, up to the end of its transaction, if no poll draws 1. -/
def commandStepsLeft (s : State) : Nat :=
  match s.phase with
  | .idle => 0
  | .halted => 0
  | .run _ .lines => 1 + transactionSteps 0 .gainB32
  | .run _ .hold => 1
  | .run _ p => stepsLeft 0 s.sel p

/-- What a step makes less, unless it is a poll that draws 1 or the run has ended: the words at the port, then the transactions still
to come (READ_RAW_AVG counts them down in `CNT`), then the steps to the end of the transaction. -/
def workLeft (s : State) : ℕ ×ₗ ℕ ×ₗ ℕ := toLex (s.port.length, toLex (s.cnt.toNat, commandStepsLeft s))

theorem workLeft_lt_of_port {s t : State} (h : t.port.length < s.port.length) : workLeft t < workLeft s :=
  Prod.Lex.toLex_lt_toLex.2 (.inl h)

theorem workLeft_lt_of_cnt {s t : State} (hport : t.port = s.port) (h : t.cnt.toNat < s.cnt.toNat) : workLeft t < workLeft s :=
  Prod.Lex.toLex_lt_toLex.2 (.inr ⟨congrArg List.length hport, Prod.Lex.toLex_lt_toLex.2 (.inl h)⟩)

theorem workLeft_lt_of_steps {s t : State} (hport : t.port = s.port) (hcnt : t.cnt = s.cnt)
    (h : commandStepsLeft t < commandStepsLeft s) : workLeft t < workLeft s :=
  Prod.Lex.toLex_lt_toLex.2
    (.inr ⟨congrArg List.length hport, Prod.Lex.toLex_lt_toLex.2 (.inr ⟨congrArg BitVec.toNat hcnt, h⟩)⟩)

theorem commandStepsLeft_of_transacts {s : State} {c : Instr} {p : Pos} (hrun : s.phase = .run c p)
    (hpos : p.transacts s.sel) : commandStepsLeft s = stepsLeft 0 s.sel p := by
  cases p with
  | lines | hold => exact hpos.elim
  | _ => simp [commandStepsLeft, hrun]

theorem transactionSteps_le (m : InputSelect) : transactionSteps 0 m ≤ transactionSteps 0 .gainB32 := by
  cases m <;> decide

/-- A transaction ends its command, or READ_RAW_AVG counts one transaction less (41_acquisition R94). -/
theorem Finishes.workLeft_lt {c : Instr} {s t : State} (h : Finishes s c t) (hc : inTransaction c s)
    (hleft : 0 < commandStepsLeft s) : workLeft t < workLeft s := by
  cases h with
  | sumsOn | means =>
    obtain ⟨hpos, -, -⟩ := hc
    exact workLeft_lt_of_cnt rfl (by simp only [goto_cnt, respond_cnt]; bv_omega)
  | _ => exact workLeft_lt_of_steps (by simp) (by simp) hleft

/-- A move between two positions of one transaction. -/
theorem workLeft_goto_lt {c : Instr} {p q : Pos} {s t : State} (hrun : s.phase = .run c p) (hp : p.transacts s.sel)
    (hq : q.transacts t.sel) (hport : t.port = s.port) (hcnt : t.cnt = s.cnt)
    (h : stepsLeft 0 t.sel q < stepsLeft 0 s.sel p) : workLeft (goto (.run c q) t) < workLeft s := by
  refine workLeft_lt_of_steps hport hcnt ?_
  rwa [commandStepsLeft_of_transacts hrun hp, commandStepsLeft_of_transacts (s := goto (.run c q) t) rfl hq]

/-- A step inside a command leaves less to do, unless it is a poll that draws 1. -/
theorem Advances.workLeft_lt {c : Instr} {p : Pos} {s t : State} (h : Advances s c p t) (hs : Inv s)
    (hrun : s.phase = .run c p) (hpoll : p = .wait → s.peek 0 = .low) : workLeft t < workLeft s := by
  cases h with
  | @configures _ m _ =>
    have hlines : commandStepsLeft s = 1 + transactionSteps 0 .gainB32 := by simp [commandStepsLeft, hrun]
    exact workLeft_lt_of_steps rfl rfl (hlines ▸ Nat.lt_one_add_iff.2 (transactionSteps_le m))
  | holds => exact workLeft_lt_of_steps rfl rfl (by simp [commandStepsLeft, hrun])
  | pollsOn c hhigh => cases hhigh.symm.trans (hpoll rfl)
  | startsData c _ =>
    refine workLeft_goto_lt hrun trivial trivial rfl rfl ?_
    simp only [stepsLeft, transactionSteps, record_sel, skip_sel, Fin.val_zero]
    omega
  | raises c i =>
    refine workLeft_goto_lt hrun trivial trivial rfl rfl ?_
    simp only [stepsLeft, clkSet_sel]
    omega
  | samples c i =>
    refine workLeft_goto_lt hrun trivial trivial rfl rfl ?_
    simp only [stepsLeft, record_sel, skip_sel]
    omega
  | shifts c i =>
    refine workLeft_goto_lt hrun trivial (afterPulse_transacts i s.sel) rfl rfl ?_
    change stepsLeft 0 s.sel (afterPulse i s.sel) < stepsLeft 0 s.sel (.data i .lo)
    rw [stepsLeft_afterPulse, stepsLeft]
    omega
  | raisesTrail c j =>
    obtain ⟨-, hj⟩ := hs.transacting hrun nofun nofun
    exact workLeft_goto_lt hrun hj hj rfl rfl (Nat.lt_succ_self _)
  | lowersTrail c j =>
    obtain ⟨-, hfirst, hlast⟩ := hs.transacting hrun nofun nofun
    split
    · next hmore =>
      refine workLeft_goto_lt hrun ⟨hfirst, hlast⟩ ⟨Nat.le_succ_of_le hfirst, hmore⟩ rfl rfl ?_
      simp only [stepsLeft, clkSet_sel]
      omega
    · refine workLeft_goto_lt hrun ⟨hfirst, hlast⟩ trivial rfl rfl ?_
      simp only [stepsLeft]
      omega
  | finishes hf =>
    obtain ⟨⟨-, -, -, hc⟩, -⟩ := hs.transacting hrun nofun nofun
    exact Finishes.workLeft_lt (s := { s with armed := some (pTrail s.sel) }) hf hc (by simp [commandStepsLeft, hrun, stepsLeft])

/-! ### One step under an environment -/

/-- The invariant does not look at the draws. -/
theorem Inv.withDraws {s : State} (hs : Inv s) (ds : List Level) : Inv { s with draws := ds } :=
  ⟨hs.tuning, hs.fault, hs.phase, hs.lines, hs.sensor, hs.armed, hs.port⟩

theorem Inv.of_stepUnder {d : Level} {s t : State} (hs : Inv s) (h : stepUnder d s = .next t) : Inv t :=
  (steps_of_step h).keeps_inv (hs.withDraws [d])

theorem Inv.exists_stepUnder {s : State} (hs : Inv s) (d : Level) : ∃ t, stepUnder d s = .next t :=
  (hs.withDraws [d]).exists_next_step

theorem stepUnder_empty (d : Level) {s : State} (hidle : s.phase = .idle) (hport : s.port = []) :
    stepUnder d s = .next { s with draws := [d] } :=
  step_idle_empty (s := { s with draws := [d] }) hidle hport

theorem stepUnder_halted (d : Level) {s : State} (hhalted : s.phase = .halted) :
    stepUnder d s = .next { s with draws := [d], port := s.port.tail } :=
  step_halted (s := { s with draws := [d] }) hhalted

theorem advances_of_stepUnder {c : Instr} {d : Level} {p : Pos} {s t : State} (hrun : s.phase = .run c p)
    (h : stepUnder d s = .next t) : Advances { s with draws := [d] } c p t :=
  advances_of_advance ((step_run (s := { s with draws := [d] }) hrun).symm.trans h)

/-- A step of an IDLE block that has a packet takes the packet's words, or halts and takes its header. -/
theorem stepUnder_packet {d : Level} {s t : State} {p rest : List Word} (hidle : s.phase = .idle) (hp : wholePacket p = true)
    (hport : s.port = p ++ rest) (h : stepUnder d s = .next t) :
    ((currentCommand s).isSome ∧ t.port = rest) ∨ (t.phase = .halted ∧ t.port = s.port.tail) := by
  obtain ⟨i, hd, htport⟩ | rfl := step_packet (s := { s with draws := [d] }) hidle hp hport h
  · exact .inl ⟨by simp [currentCommand_of_decode hidle hd], htport⟩
  · exact .inr ⟨rfl, rfl⟩

/-- A poll that draws 1 leaves the command at its poll and as much to do as before. -/
theorem stepUnder_poll {c : Instr} {s : State} (hwait : s.phase = .run c .wait) :
    ∃ t, stepUnder .high s = .next t ∧ t.phase = .run c .wait ∧ workLeft t = workLeft s :=
  ⟨_, step_wait_high (s := { s with draws := [.high] }) hwait rfl, hwait, rfl⟩

/-! ### Runs under an environment -/

/-- A run from a state with the invariant goes on for any number of steps. -/
theorem Inv.exists_runUnder {s : State} (hs : Inv s) (env : Nat → Level) (k : Nat) : ∃ t, runUnder env k s = .next t := by
  induction k generalizing env s with
  | zero => exact ⟨s, rfl⟩
  | succ k ih =>
    obtain ⟨u, hu⟩ := hs.exists_stepUnder (env 0)
    rw [runUnder_succ_next hu]
    exact ih (hs.of_stepUnder hu) _

/-- The first step of a run that is not empty. -/
theorem exists_stepUnder_of_runUnder {env : Nat → Level} {k : Nat} {s t : State} (h : runUnder env (k + 1) s = .next t) :
    ∃ u, stepUnder (env 0) s = .next u ∧ runUnder (fun n => env (n + 1)) k u = .next t := by
  cases hu : stepUnder (env 0) s with
  | next u => exact ⟨u, rfl, (runUnder_succ_next hu).symm.trans h⟩
  | fault e => simp [runUnder, hu] at h
  | refused e => simp [runUnder, hu] at h

theorem runUnder_succ_of_stepUnder {env : Nat → Level} {k : Nat} {s t u : State} (hk : runUnder env k s = .next u)
    (h : stepUnder (env k) u = .next t) : runUnder env (k + 1) s = .next t :=
  (runUnder_add hk).trans (runUnder_succ_next h)

theorem eq_high_of_ne {d : Level} (h : d ≠ .low) : d = .high := by
  cases d with
  | low => exact absurd rfl h
  | high => rfl

/-- While the line stays high a command polls on (40_link R86). -/
theorem runUnder_polls {env : Nat → Level} {c : Instr} {k : Nat} {s : State} (hwait : s.phase = .run c .wait)
    (hhigh : ∀ j, j < k → env j = .high) :
    ∃ t, runUnder env k s = .next t ∧ t.phase = .run c .wait ∧ workLeft t = workLeft s := by
  induction k with
  | zero => exact ⟨s, rfl, hwait, rfl⟩
  | succ k ih =>
    obtain ⟨u, hu, huwait, huleft⟩ := ih fun j hj => hhigh j (hj.trans k.lt_succ_self)
    obtain ⟨t, ht, htwait, htleft⟩ := stepUnder_poll huwait
    rw [← hhigh k k.lt_succ_self] at ht
    exact ⟨t, runUnder_succ_of_stepUnder hu ht, htwait, htleft.trans huleft⟩

/-! ### What lasts -/

/-- What a step under any draw keeps. -/
def Persists (P : State → Prop) : Prop := ∀ d s t, P s → stepUnder d s = .next t → P t

theorem Persists.of_runUnder {P : State → Prop} (hP : Persists P) {env : Nat → Level} {k : Nat} {s t : State} (hs : P s)
    (h : runUnder env k s = .next t) : P t := by
  induction k generalizing env s with
  | zero => cases h; exact hs
  | succ k ih =>
    obtain ⟨u, hu, hrest⟩ := exists_stepUnder_of_runUnder h
    exact ih (hP _ _ _ hs hu) hrest

/-- What persists and holds after `k` steps holds after any `n` behind them. -/
theorem Persists.of_le {P : State → Prop} (hP : Persists P) {env : Nat → Level} {k n : Nat} {s t u : State} (hkn : k ≤ n)
    (hk : runUnder env k s = .next u) (hu : P u) (hn : runUnder env n s = .next t) : P t := by
  obtain ⟨b, rfl⟩ := Nat.exists_eq_add_of_le hkn
  rw [runUnder_add hk] at hn
  exact hP.of_runUnder hu hn

theorem persists_inv : Persists Inv := fun _ _ _ hs h => hs.of_stepUnder h

theorem persists_completed : Persists completed := by
  rintro d s t ⟨hidle, hport, hfv⟩ h
  cases (stepUnder_empty d hidle hport).symm.trans h
  exact ⟨hidle, hport, hfv⟩

theorem persists_faulted : Persists faulted := by
  rintro d s t ⟨hhalted, hfv⟩ h
  cases (stepUnder_halted d hhalted).symm.trans h
  exact ⟨hhalted, hfv⟩

/-! ### The three ends are exclusive -/

/-- No run both completes and faults: after either, both would last (70_reset R138). -/
theorem not_completes_and_faults {env : Nat → Level} {s : State} (hs : Inv s) :
    ¬ (completesUnder env s ∧ faultsUnder env s) := by
  rintro ⟨⟨k, u, hu, hdone⟩, j, v, hv, hfault⟩
  obtain ⟨t, ht⟩ := hs.exists_runUnder env (k + j)
  exact not_completed_of_faulted (persists_faulted.of_le (Nat.le_add_left j k) hv hfault ht)
    (persists_completed.of_le (Nat.le_add_right k j) hu hdone ht)

/-- A run that comes to something that lasts and is no poll is not Hung. -/
theorem Persists.not_hung {P : State → Prop} (hP : Persists P) (hpoll : ∀ s c, P s → s.phase ≠ .run c .wait)
    {env : Nat → Level} {k : Nat} {s u : State} (hk : runUnder env k s = .next u) (hu : P u) : ¬ hungUnder env s := by
  rintro ⟨j, c, hhung⟩
  obtain ⟨-, t, ht, hwait⟩ := hhung (k + j) (Nat.le_add_left j k)
  exact hpoll t c (hP.of_le (Nat.le_add_right k j) hk hu ht) hwait

theorem completed.phase_ne_run {s : State} (hs : completed s) (c : Instr) (p : Pos) : s.phase ≠ .run c p := by
  simp [hs.1]

theorem faulted.phase_ne_run {s : State} (hs : faulted s) (c : Instr) (p : Pos) : s.phase ≠ .run c p := by
  simp [hs.1]

/-- A poll that draws 0 is what a hung run does not have (70_reset R138, R146). -/
theorem not_hung_of_readyEventually {env : Nat → Level} {s : State} (hready : readyEventually env s) : ¬ hungUnder env s := by
  rintro ⟨k, c, hhung⟩
  obtain ⟨-, t, ht, hwait⟩ := hhung k le_rfl
  obtain ⟨j, hlow⟩ := hready k c t ht hwait
  obtain ⟨hhigh, -⟩ := hhung (k + j) (Nat.le_add_right k j)
  cases hlow.symm.trans hhigh

/-! ### Every run has one of the three ends -/

/-- The run from `s` under `env` ends in one of the three ways (70_reset R138). -/
def Ends (env : Nat → Level) (s : State) : Prop := completesUnder env s ∨ faultsUnder env s ∨ hungUnder env s

/-- A run ends as what is left of it after some steps does. -/
theorem Ends.of_runUnder {env : Nat → Level} {j : Nat} {s t : State} (hj : runUnder env j s = .next t)
    (h : Ends (fun n => env (j + n)) t) : Ends env s := by
  obtain ⟨k, u, hu, hdone⟩ | ⟨k, u, hu, hfault⟩ | ⟨k, c, hhung⟩ := h
  · exact .inl ⟨j + k, u, (runUnder_add hj).trans hu, hdone⟩
  · exact .inr (.inl ⟨j + k, u, (runUnder_add hj).trans hu, hfault⟩)
  · refine .inr (.inr ⟨j + k, c, fun n hn => ?_⟩)
    obtain ⟨m, rfl⟩ := Nat.exists_eq_add_of_le (Nat.le_of_add_right_le hn)
    rw [runUnder_add hj]
    exact hhung m (Nat.le_of_add_le_add_left hn)

theorem Inv.completed_of_empty {s : State} (hs : Inv s) (hidle : s.phase = .idle) (hport : s.port = []) : completed s :=
  ⟨hidle, hport, by simp [State.fv, hs.fault_eq_zero (by simp [hidle])]⟩

theorem Inv.faulted_of_halted {s : State} (hs : Inv s) (hhalted : s.phase = .halted) : faulted s :=
  ⟨hhalted, hs.fv_iff.2 hhalted⟩

theorem Inv.workLeft_lt_of_stepUnder {c : Instr} {d : Level} {p : Pos} {s t : State} (hs : Inv s) (hrun : s.phase = .run c p)
    (hpoll : p = .wait → d = .low) (h : stepUnder d s = .next t) : workLeft t < workLeft s :=
  (advances_of_stepUnder hrun h).workLeft_lt (hs.withDraws [d]) hrun hpoll

/-- A command that waits polls forever, or comes to the poll that draws 0 and so has less left to do (40_link R86). -/
theorem Inv.hung_or_workLeft_lt {env : Nat → Level} {c : Instr} {s : State} (hs : Inv s) (hwait : s.phase = .run c .wait) :
    hungUnder env s ∨ ∃ k t, runUnder env k s = .next t ∧ workLeft t < workLeft s := by
  by_cases hlow : ∃ k, env k = .low
  · have hhigh : ∀ j, j < Nat.find hlow → env j = .high := fun j hj => eq_high_of_ne (Nat.find_min hlow hj)
    obtain ⟨u, hu, huwait, huleft⟩ := runUnder_polls hwait hhigh
    have hinv : Inv u := persists_inv.of_runUnder hs hu
    obtain ⟨t, ht⟩ := hinv.exists_stepUnder (env (Nat.find hlow))
    exact .inr ⟨_, t, runUnder_succ_of_stepUnder hu ht,
      huleft ▸ hinv.workLeft_lt_of_stepUnder huwait (fun _ => Nat.find_spec hlow) ht⟩
  · have hhigh : ∀ j, env j = .high := fun j => eq_high_of_ne fun hd => hlow ⟨j, hd⟩
    refine .inl ⟨0, c, fun n _ => ⟨hhigh n, ?_⟩⟩
    obtain ⟨t, ht, htwait, -⟩ := runUnder_polls hwait fun j (_ : j < n) => hhigh j
    exact ⟨t, ht, htwait⟩

/-- A run has ended, or hangs, or comes to a state with less left to do. -/
theorem Inv.ends_or_workLeft_lt {s : State} (hs : Inv s) (env : Nat → Level) :
    Ends env s ∨ ∃ k t, runUnder env k s = .next t ∧ workLeft t < workLeft s := by
  cases hphase : s.phase with
  | halted => exact .inl (.inr (.inl ⟨0, s, rfl, hs.faulted_of_halted hphase⟩))
  | run c p =>
    by_cases hwait : p = .wait
    · subst hwait
      exact (hs.hung_or_workLeft_lt hphase).imp_left fun hhung => .inr (.inr hhung)
    · obtain ⟨t, ht⟩ := hs.exists_stepUnder (env 0)
      exact .inr ⟨1, t, runUnder_succ_next ht, hs.workLeft_lt_of_stepUnder hphase (absurd · hwait) ht⟩
  | idle =>
    obtain ⟨packets, hwhole, hport⟩ := hs.port.resolve_left (by simp [hphase])
    cases packets with
    | nil => exact .inl (.inl ⟨0, s, rfl, hs.completed_of_empty hphase hport⟩)
    | cons p left =>
      obtain ⟨hp, -⟩ := List.forall_mem_cons.1 hwhole
      have hlen : 0 < p.length := List.length_pos_iff.2 (ne_nil_of_wholePacket hp)
      obtain ⟨t, ht⟩ := hs.exists_stepUnder (env 0)
      refine .inr ⟨1, t, runUnder_succ_next ht, workLeft_lt_of_port ?_⟩
      obtain ⟨-, htport⟩ | ⟨-, htport⟩ := stepUnder_packet hphase hp hport ht
      · simp [htport, hport, hlen]
      · have hnonempty : 0 < s.port.length := by simp [hport, hlen]
        rw [htport, List.length_tail]
        omega

/-- From every state with the invariant the run ends, by induction on the work left. -/
theorem Inv.ends {s : State} (hs : Inv s) (env : Nat → Level) : Ends env s := by
  induction hw : workLeft s using WellFoundedLT.induction generalizing s env with
  | ind w ih =>
    subst hw
    obtain hends | ⟨k, t, hk, hlt⟩ := hs.ends_or_workLeft_lt env
    · exact hends
    · exact .of_runUnder hk (ih _ hlt (persists_inv.of_runUnder hs hk) _ rfl)

/-! ### One value of RES for each packet -/

/-- The commands under way: one in a BUSY block. -/
def underWay (s : State) : Nat :=
  match s.phase with
  | .idle => 0
  | .run _ _ => 1
  | .halted => 0

theorem length_resultsUnder_succ {env : Nat → Level} {k : Nat} {s u : State} (h : stepUnder (env 0) s = .next u) :
    (resultsUnder env (k + 1) s).length =
      (commandEnds s u).toNat + (resultsUnder (fun n => env (n + 1)) k u).length := by
  cases hends : commandEnds s u <;> simp [resultsUnder, h, hends, Nat.add_comm]

/-- A command of a run that does not halt has ended or is under way. -/
theorem commandEnds_add_underWay {s u : State} (hcommand : (currentCommand s).isSome) (hu : u.phase ≠ .halted) :
    (commandEnds s u).toNat + underWay u = 1 := by
  cases hphase : u.phase with
  | halted => exact absurd hphase hu
  | _ => simp [commandEnds, underWay, hcommand, hphase]

/-- A run that completes has not halted on the way. -/
theorem phase_ne_halted_of_completes {env : Nat → Level} {k : Nat} {s t : State} (hs : Inv s)
    (h : runUnder env k s = .next t) (ht : completed t) : s.phase ≠ .halted := fun hhalted =>
  not_completed_of_faulted (persists_faulted.of_runUnder (hs.faulted_of_halted hhalted) h) ht

/-- A completed run ends the command under way and one command for each packet at the port. -/
theorem length_resultsUnder {packets : List (List Word)} {env : Nat → Level} {k : Nat} {s t : State} (hs : Inv s)
    (hwhole : ∀ p ∈ packets, wholePacket p = true) (hport : s.port = packets.flatten) (h : runUnder env k s = .next t)
    (ht : completed t) : (resultsUnder env k s).length = packets.length + underWay s := by
  induction k generalizing packets env s with
  | zero =>
    cases h
    obtain ⟨hidle, hempty, -⟩ := ht
    cases packets with
    | nil => simp [resultsUnder, underWay, hidle]
    | cons p left =>
      have hp := ne_nil_of_wholePacket (List.forall_mem_cons.1 hwhole).1
      simp [hport, hp] at hempty
  | succ k ih =>
    obtain ⟨u, hu, hrest⟩ := exists_stepUnder_of_runUnder h
    have hinv := hs.of_stepUnder hu
    have hunhalted := phase_ne_halted_of_completes hinv hrest ht
    rw [length_resultsUnder_succ hu]
    cases hphase : s.phase with
    | halted => exact absurd hphase (phase_ne_halted_of_completes hs h ht)
    | run c p =>
      have hended := commandEnds_add_underWay (s := s) (by simp [currentCommand_of_run hphase]) hunhalted
      rw [ih hinv hwhole ((advances_of_stepUnder hphase hu).port.trans hport) hrest]
      simp only [underWay, hphase] at hended ⊢
      omega
    | idle =>
      cases packets with
      | nil =>
        cases (stepUnder_empty _ hphase hport).symm.trans hu
        rw [ih hinv hwhole hport hrest]
        simp [commandEnds, currentCommand, takePacket, hphase, hport, decode, underWay]
      | cons p left =>
        obtain ⟨hp, hleft⟩ := List.forall_mem_cons.1 hwhole
        obtain ⟨hcommand, huport⟩ := (stepUnder_packet hphase hp hport hu).resolve_right fun hhalts => hunhalted hhalts.1
        have hended := commandEnds_add_underWay hcommand hunhalted
        rw [ih hinv hleft huport hrest]
        simp only [underWay, hphase, List.length_cons] at hended ⊢
        omega

/-- Settles O60: the work left falls at every step but a poll that draws 1, ended runs stay ended, and each command that ends has
taken one packet. -/
theorem everyRunCompletesFaultsOrHangs : Obligations.EveryRunCompletesFaultsOrHangs := by
  intro env s hs
  refine ⟨hs.ends env, not_completes_and_faults hs, ?_, ?_, not_hung_of_readyEventually, ?_⟩
  · rintro ⟨⟨k, u, hk, hdone⟩, hhung⟩
    exact persists_completed.not_hung (fun _ c hu => hu.phase_ne_run c .wait) hk hdone hhung
  · rintro ⟨⟨k, u, hk, hfault⟩, hhung⟩
    exact persists_faulted.not_hung (fun _ c hu => hu.phase_ne_run c .wait) hk hfault hhung
  · intro packets k t hidle hwhole hport h ht
    simpa [underWay, hidle] using length_resultsUnder hs hwhole hport h ht

end Sys2Proof.Machine
end
